-- ==== Sys2Proof/Word.lean ====
section
/-! DEFINITION. The word types of the machine (00_scope.md R2): byte, quarter, half, word, and the 512-bit vector. -/
namespace Sys2Proof

/-- A byte, 8 bits (R2). -/
abbrev Byte := BitVec 8
/-- A half, 32 bits (R2): also the width of an instruction (R126). -/
abbrev Half := BitVec 32
/-- A word, 64 bits (R2). -/
abbrev Word := BitVec 64
/-- A vector register, 512 bits (R53). -/
abbrev Vec := BitVec 512
/-- A register number (R129). -/
abbrev Reg := BitVec 4
/-- A physical core: row in bits 12:6, column in bits 5:0, as PCOORD lays them out (R15). -/
abbrev Cid := BitVec 13
/-- A physical slot: the core in bits 15:3, the slot in bits 2:0. -/
abbrev Tid := BitVec 16

end Sys2Proof
end

