-- ==== Sys2Proof/Machine/Bits.lean ====
section
/-! DEFINITION. Bit fields, extension and rotation: the helpers that 00_scope.md R4 names. -/
namespace Sys2Proof.Machine

/-- `bits(x, hi, lo)` as an unsigned number (R4). -/
def bits {n : Nat} (x : BitVec n) (hi lo : Nat) : Nat := (x.toNat >>> lo) % 2 ^ (hi + 1 - lo)

/-- Bit `i` of `x`. -/
def bit {n : Nat} (x : BitVec n) (i : Nat) : Bool := x.getLsbD i

/-- `x` with bits `hi` to `lo` replaced by the low bits of `v`. -/
def setBits {n : Nat} (x : BitVec n) (hi lo v : Nat) : BitVec n :=
  let m := (2 ^ (hi + 1 - lo) - 1) <<< lo
  (x &&& ~~~ BitVec.ofNat n m) ||| BitVec.ofNat n ((v % 2 ^ (hi + 1 - lo)) <<< lo)

/-- `x` with bit `i` set to `b`. -/
def setBit {n : Nat} (x : BitVec n) (i : Nat) (b : Bool) : BitVec n :=
  if b then x ||| BitVec.ofNat n (1 <<< i) else x &&& ~~~ BitVec.ofNat n (1 <<< i)

/-- `sx(x)`: sign-extended to a word (R4). -/
def sx {n : Nat} (x : BitVec n) : Word := x.signExtend 64

/-- `zx(x)`: zero-extended to a word (R4). -/
def zx {n : Nat} (x : BitVec n) : Word := x.setWidth 64

/-- `rotl32(x, n)` and `rotl64(x, n)` (R4). -/
def rotl32 (x : Half) (n : Nat) : Half := x.rotateLeft n
def rotl64 (x : Word) (n : Nat) : Word := x.rotateLeft n

/-- The word all of whose bits are one. -/
def allOnes : Word := BitVec.allOnes 64

/-- One bit as a word. -/
def b2w (b : Bool) : Word := if b then 1 else 0

/-- The byte `i` of `x`, little-endian. -/
def byteOf {n : Nat} (x : BitVec n) (i : Nat) : Byte := x.extractLsb' (8 * i) 8

end Sys2Proof.Machine
end

