-- ==== Sys2Proof/Machine/Float.lean ====
section
/-! DEFINITION. The number formats and their arithmetic (07_numbers.md): exact values, IEEE 754 rounding, the narrow floats,
the log formats, integer conversions, and the correctly rounded special functions. Every operation is exact until one named
rounding (00_scope.md R4). -/
namespace Sys2Proof.Machine

/-- An exact value: NaN or NaR, an infinity, or the number (-1)^neg * man * 2^exp. -/
inductive FVal where
  | nan
  | inf (neg : Bool)
  | fin (neg : Bool) (man : Nat) (exp : Int)
  deriving DecidableEq, Repr

/-- An IEEE format: exponent bits and mantissa bits (R106, R111). -/
structure FFmt where
  eb : Nat
  mb : Nat
  deriving DecidableEq, Repr

def fF16 : FFmt := ⟨5, 10⟩
def fBF16 : FFmt := ⟨8, 7⟩
def fF32 : FFmt := ⟨8, 23⟩
def fF64 : FFmt := ⟨11, 52⟩

def FFmt.bias (f : FFmt) : Int := 2 ^ (f.eb - 1) - 1
def FFmt.width (f : FFmt) : Nat := f.eb + f.mb + 1
/-- The code of +infinity. -/
def FFmt.infCode (f : FFmt) : Nat := (2 ^ f.eb - 1) * 2 ^ f.mb
/-- The canonical quiet NaN (R113). -/
def FFmt.nanCode (f : FFmt) : Nat := f.infCode + 2 ^ (f.mb - 1)
/-- The exponent of the least subnormal bit. -/
def FFmt.emin (f : FFmt) : Int := 1 - f.bias - f.mb

/-- A narrow float: exponent bits, mantissa bits and bias (R106, R107). -/
structure NFmt where
  eb : Nat
  mb : Nat
  bias : Int
  deriving DecidableEq, Repr

def nF8A : NFmt := ⟨4, 3, 8⟩
def nF8B : NFmt := ⟨5, 2, 16⟩
def nF6A : NFmt := ⟨3, 2, 4⟩
def nF6B : NFmt := ⟨2, 3, 2⟩
def nF4 : NFmt := ⟨2, 1, 1⟩

def NFmt.signBit (f : NFmt) : Nat := 2 ^ (f.eb + f.mb)
def NFmt.emin (f : NFmt) : Int := 1 - f.bias - f.mb

/-- A rounding mode by its rm code (R112). -/
abbrev RMode := BitVec 2
def rneMode : RMode := 0

/-! ### Reading codes -/

/-- The value of an IEEE code. -/
def FFmt.value (f : FFmt) (x : Nat) : FVal :=
  let neg := x / 2 ^ (f.eb + f.mb) % 2 = 1
  let e := x / 2 ^ f.mb % 2 ^ f.eb
  let m := x % 2 ^ f.mb
  if e = 2 ^ f.eb - 1 then (if m = 0 then .inf neg else .nan)
  else if e = 0 then .fin neg m f.emin
  else .fin neg (2 ^ f.mb + m) (f.emin + (e - 1))

/-- The value of a narrow code (R107). -/
def NFmt.value (f : NFmt) (x : Nat) : FVal :=
  let x := x % (2 * f.signBit)
  if x = f.signBit then .nan
  else
    let neg := x / f.signBit = 1
    let e := x / 2 ^ f.mb % 2 ^ f.eb
    let m := x % 2 ^ f.mb
    if e = 0 then .fin neg m f.emin else .fin neg (2 ^ f.mb + m) (f.emin + (e - 1))

/-- The table constants LT (R119) as mantissas of binary32. -/
def ltMan (j : Nat) : Nat :=
  match j with
  | 0 => 0x800000
  | 1 => 0x9837F0
  | 2 => 0xB504F3
  | _ => 0xD744FD

/-- The representative of a log code with `bits` bits below the sign and bias `bias` (R108). -/
def lnsValue (bits : Nat) (bias : Int) (x : Nat) : FVal :=
  let q := x % 2 ^ bits
  let neg := x / 2 ^ bits % 2 = 1
  if q = 0 then (if neg then .nan else .fin false 0 0)
  else .fin neg (ltMan (q % 4)) ((q / 4 : Nat) - bias - 23)

/-! ### Rounding -/

/-- `n * 2^-s` to an integer by the mode, for a value of the sign given. -/
def roundShift (rm : RMode) (neg : Bool) (n s : Nat) : Nat :=
  let q := n >>> s
  let r := n - (q <<< s)
  if r = 0 then q
  else
    let up := match rm.toNat with
      | 0 => 2 * r > 2 ^ s || (2 * r = 2 ^ s && q % 2 = 1)
      | 1 => false
      | 2 => neg
      | _ => !neg
    if up then q + 1 else q

/-- `man * 2^exp` in units of `2^unit`, rounded. -/
def roundUnits (rm : RMode) (neg : Bool) (man : Nat) (exp unit : Int) : Nat :=
  if unit ≤ exp then man <<< (exp - unit).toNat else roundShift rm neg man (unit - exp).toNat

/-- The magnitude code of a positive number before overflow: exponent and mantissa laid out as the codes count. -/
def magnitude (rm : RMode) (neg : Bool) (mb : Nat) (emin : Int) (man : Nat) (exp : Int) : Nat :=
  let top : Int := man.log2 + exp
  let unit := if top - mb < emin then emin else top - mb
  ((unit - emin).toNat <<< mb) + roundUnits rm neg man exp unit

/-- x rounded to an IEEE format in a mode (R112, R113). -/
def FFmt.round (f : FFmt) (rm : RMode) : FVal → Nat
  | .nan => f.nanCode
  | .inf neg => (if neg then 2 ^ (f.eb + f.mb) else 0) + f.infCode
  | .fin neg man exp =>
    let sign := if neg then 2 ^ (f.eb + f.mb) else 0
    if man = 0 then sign
    else
      let c := magnitude rm neg f.mb f.emin man exp
      if c < f.infCode then sign + c
      else
        let toInf := match rm.toNat with
          | 0 => true
          | 1 => false
          | 2 => neg
          | _ => !neg
        sign + (if toInf then f.infCode else f.infCode - 1)

/-- The value divided by 2^k. -/
def FVal.scaleDown (x : FVal) (k : Int) : FVal :=
  match x with
  | .fin neg man exp => .fin neg man (exp - k)
  | y => y

/-- x into a narrow float under S8 scale code `c` (R114). -/
def NFmt.convert (f : NFmt) (c : Nat) (x : FVal) : Nat :=
  if c = 255 then f.signBit
  else
    match x.scaleDown (c - 127) with
    | .nan | .inf _ => f.signBit
    | .fin neg man exp =>
      if man = 0 then 0
      else
        let m := magnitude rneMode neg f.mb f.emin man exp
        let m := if m < f.signBit then m else f.signBit - 1
        if m = 0 then 0 else (if neg then f.signBit else 0) + m

/-- x into a log format of `qbits` log bits and bias `bias` under scale code `c` (R116). With Y = |y| 2^bias,
q = ⌊(⌊log2 Y^8⌋ + 1) / 2⌋, since no tie occurs. -/
def lnsConvert (qbits : Nat) (bias : Int) (c : Nat) (x : FVal) : Nat :=
  if c = 255 then 2 ^ qbits
  else
    match x.scaleDown (c - 127) with
    | .nan | .inf _ => 2 ^ qbits
    | .fin neg man exp =>
      if man = 0 then 0
      else
        let l8 : Int := (man ^ 8).log2 + 8 * (exp + bias)
        let q := (l8 + 1) / 2
        if q < 1 then 0
        else (if neg then 2 ^ qbits else 0) + (if q ≥ 2 ^ qbits then 2 ^ qbits - 1 else q.toNat)

/-- x rounded to an integer by the mode and saturated to [lo, hi] (R117): NaN gives 0, infinities saturate. -/
def FVal.toIntSat (x : FVal) (rm : RMode) (lo hi : Int) : Int :=
  match x with
  | .nan => 0
  | .inf neg => if neg then lo else hi
  | .fin neg man exp =>
    if exp > 128 && man ≠ 0 then (if neg then lo else hi)
    else
      let n : Int := roundUnits rm neg man exp 0
      let v := if neg then -n else n
      if v < lo then lo else if v > hi then hi else v

/-- An integer as an exact value. -/
def intVal (n : Int) : FVal := .fin (decide (n < 0)) n.natAbs 0

/-! ### Exact arithmetic -/

/-- Whether the value is a zero. -/
def FVal.isZero : FVal → Bool
  | .fin _ 0 _ => true
  | _ => false

/-- The signed mantissa. -/
def signedMan (neg : Bool) (man : Nat) : Int := if neg then -(man : Int) else man

/-- The exact sum; a sum of zero takes the sign that the mode gives (R113, IEEE 754). -/
def FVal.add (rm : RMode) : FVal → FVal → FVal
  | .nan, _ => .nan
  | _, .nan => .nan
  | .inf a, .inf b => if a = b then .inf a else .nan
  | .inf a, _ => .inf a
  | _, .inf b => .inf b
  | .fin na ma ea, .fin nb mb eb =>
    let e := if ea < eb then ea else eb
    let s := signedMan na (ma <<< (ea - e).toNat) + signedMan nb (mb <<< (eb - e).toNat)
    if s = 0 then
      let neg := if na = nb then na else decide (rm = 2)
      .fin neg 0 e
    else .fin (decide (s < 0)) s.natAbs e

def FVal.neg : FVal → FVal
  | .nan => .nan
  | .inf n => .inf (!n)
  | .fin n m e => .fin (!n) m e

/-- The exact product; infinity times zero is NaN (R118). -/
def FVal.mul : FVal → FVal → FVal
  | .nan, _ => .nan
  | _, .nan => .nan
  | .inf a, .inf b => .inf (a != b)
  | .inf a, .fin b m _ => if m = 0 then .nan else .inf (a != b)
  | .fin a m _, .inf b => if m = 0 then .nan else .inf (a != b)
  | .fin a ma ea, .fin b mb eb => .fin (a != b) (ma * mb) (ea + eb)

/-- a < b as real numbers with infinities; zeros of both signs are equal; false with a NaN. -/
def FVal.lt : FVal → FVal → Bool
  | .nan, _ => false
  | _, .nan => false
  | .inf a, .inf b => a && !b
  | .inf a, _ => a
  | _, .inf b => !b
  | .fin na ma ea, .fin nb mb eb =>
    let e := if ea < eb then ea else eb
    signedMan na (ma <<< (ea - e).toNat) < signedMan nb (mb <<< (eb - e).toNat)

/-- Numerical equality; false with a NaN. -/
def FVal.eq (a b : FVal) : Bool := a ≠ .nan && b ≠ .nan && !a.lt b && !b.lt a

def FVal.isNeg : FVal → Bool
  | .nan => false
  | .inf n => n
  | .fin n _ _ => n

/-- a counts as larger than b, +0 being larger than -0 (R113). -/
def FVal.gtZ (a b : FVal) : Bool := b.lt a || (a.isZero && b.isZero && !a.isNeg && b.isNeg)

/-- The larger and the smaller of two operands; a NaN loses to a number (R113). Answers whether the first is taken. -/
def FVal.takeMax (a b : FVal) : Bool := if a = .nan then false else if b = .nan then true else !b.gtZ a
def FVal.takeMin (a b : FVal) : Bool := if a = .nan then false else if b = .nan then true else !a.gtZ b

/-! ### Correctly rounded functions -/

/-- A value known to lie strictly between n and n + 1 units of 2^-p, or to be n units when `exact`: held with one sticky bit
below, which no rounding of a format of fewer bits can mistake (log entry 14). -/
def sticky (n : Int) (p : Nat) (exact : Bool) : FVal :=
  let v := 2 * n + (if exact then 0 else 1)
  .fin (decide (v < 0)) v.natAbs (-(p + 1))

/-- The integer square root, bit by bit. -/
def isqrtFrom (n : Nat) : Nat → Nat → Nat
  | 0, r => r
  | b + 1, r =>
    let r' := r + 2 ^ b
    isqrtFrom n b (if r' * r' ≤ n then r' else r)
def isqrt (n : Nat) : Nat := isqrtFrom n (n.log2 / 2 + 1) 0

/-- 1/x with the special cases of R122. -/
def FVal.rcp : FVal → FVal
  | .nan => .nan
  | .inf n => .fin n 0 0
  | .fin n m e =>
    if m = 0 then .inf n
    else
      let k := m.log2 + 80
      let q := 2 ^ k / m
      let s := if q * m = 2 ^ k then 2 * q else 2 * q + 1
      .fin n s (-(k + 1) - e)

/-- 1/sqrt(x) with the special cases of R122. -/
def FVal.rsqrt : FVal → FVal
  | .nan => .nan
  | .inf n => if n then .nan else .fin false 0 0
  | .fin n m e =>
    if m = 0 then .inf n
    else if n then .nan
    else
      let m' := if e % 2 = 0 then m else 2 * m
      let e' := if e % 2 = 0 then e else e - 1
      let k := m'.log2 + 80
      let r := isqrt (2 ^ (2 * k) / m')
      let s := if r * r * m' = 2 ^ (2 * k) then 2 * r else 2 * r + 1
      .fin false s (-(k + 1) - e' / 2)

/-- Working precision of the series below, in bits after the point (log entry 14). -/
def wp : Nat := 320
/-- ln 2 and pi in units of 2^-320. -/
def ln2Fix : Nat := 0xb17217f7d1cf79abc9e3b39803f2f6af40f343267298b62d8a0d175b8baafa2be7b876206debac98
def piFix : Nat := 0x3243f6a8885a308d313198a2e03707344a4093822299f31d0082efa98ec4e6c89452821e638d01377

/-- The sum of terms t, t·x/k, t·x²/(k(k+1)) and so on, `n` of them, in units of 2^-320. -/
def expSeries (x : Nat) : Nat → Nat → Nat → Nat → Nat
  | 0, _, _, acc => acc
  | n + 1, k, t, acc =>
    let t' := ((t * x) >>> wp) / k
    expSeries x n (k + 1) t' (acc + t')

/-- 2^x with the special cases of R122: the integer part shifts, the fraction goes through the series of exp. -/
def FVal.exp2 : FVal → FVal
  | .nan => .nan
  | .inf n => if n then .fin false 0 0 else .inf false
  | .fin neg m e =>
    if m = 0 then .fin false 1 0
    else
      let top : Int := m.log2 + e
      if 10 < top then (if neg then .fin false 1 (-1000) else .fin false 1 1000)
      else if top < -100 then sticky (if neg then 2 ^ 100 - 1 else 2 ^ 100) 100 false
      else
        let x : Int := signedMan neg (if 0 ≤ e + 200 then m <<< (e + 200).toNat else 0)
        let n := x / 2 ^ 200
        let f := (x % 2 ^ 200).toNat
        if f = 0 then .fin false 1 n
        else
          let y := (f * ln2Fix) >>> 200
          (sticky (expSeries y 80 1 (2 ^ wp) (2 ^ wp)) wp false).scaleDown (-n)

/-- The binary digits of log2 of z in [1, 2), by squaring. -/
def log2Digits : Nat → Nat → Nat → Nat
  | 0, _, acc => acc
  | n + 1, z, acc =>
    let z2 := (z * z) >>> wp
    if z2 ≥ 2 ^ (wp + 1) then log2Digits n (z2 / 2) (2 * acc + 1) else log2Digits n z2 (2 * acc)

/-- log2(x) with the special cases of R122; exact for a power of two. -/
def FVal.log2 : FVal → FVal
  | .nan => .nan
  | .inf n => if n then .nan else .inf false
  | .fin neg m e =>
    if m = 0 then .inf true
    else if neg then .nan
    else
      let l := m.log2
      let n : Int := l + e
      if m = 2 ^ l then .fin (decide (n < 0)) n.natAbs 0
      else sticky (n * 2 ^ 128 + log2Digits 128 (m <<< (wp - l)) 0) 128 false

/-- The alternating series of cosine or sine from a first term. -/
def trigSeries (x2 : Nat) : Nat → Nat → Int → Int → Int
  | 0, _, _, acc => acc
  | n + 1, k, t, acc =>
    let t' := -((t * x2 / 2 ^ wp) / (k * (k + 1)))
    trigSeries x2 n (k + 2) t' (acc + t')

/-- cos and sin of an angle in [0, pi/4], in units of 2^-320. -/
def cosFix (x : Nat) : Int := trigSeries ((x * x) >>> wp) 40 1 (2 ^ wp) (2 ^ wp)
def sinFix (x : Nat) : Int := trigSeries ((x * x) >>> wp) 40 2 x x

/-- cos(2·pi·m/8n) and sin of it for 0 ≤ m ≤ n, the exact ends kept exact. -/
def octant (m n : Nat) : FVal × FVal :=
  if m = 0 then (.fin false 1 0, .fin false 0 0)
  else
    let x := piFix * m / (4 * n)
    (sticky (cosFix x) wp false, sticky (sinFix x) wp false)

/-- (cos, sin) of 2·pi·m/N for N = 2^L and m < N, reduced by octants without rounding. -/
def cosSin (m L : Nat) : FVal × FVal :=
  -- in units of N/8 of a turn, scaled by 8 so that every N is divisible
  let n := 2 ^ L
  let m8 := 8 * m
  let o := m8 / n
  let r := m8 % n
  let (c, s) := if o % 2 = 0 then octant r n else (let (c, s) := octant (n - r) n; (s, c))
  match o with
  | 0 => (c, s)
  | 1 => (c, s)
  | 2 => (s.neg, c)
  | 3 => (s.neg, c)
  | 4 => (c.neg, s.neg)
  | 5 => (c.neg, s.neg)
  | 6 => (s, c.neg)
  | _ => (s, c.neg)

/-- A zero written as +0 (R124). -/
def FVal.plusZero (x : FVal) : FVal := if x.isZero then .fin false 0 0 else x

/-! ### Far operations on floats (03_addresses.md R51) -/

/-- rne(a + b) in a format, from codes to a code. -/
def FFmt.addCode (f : FFmt) (rm : RMode) (a b : Nat) : Nat := f.round rm (FVal.add rm (f.value a) (f.value b))

/-- The larger code under R113: the canonical NaN when both are NaN. -/
def FFmt.maxCode (f : FFmt) (a b : Nat) : Nat :=
  if f.value a = .nan && f.value b = .nan then f.nanCode
  else if (f.value a).takeMax (f.value b) then a else b
def FFmt.minCode (f : FFmt) (a b : Nat) : Nat :=
  if f.value a = .nan && f.value b = .nan then f.nanCode
  else if (f.value a).takeMin (f.value b) then a else b

/-- FAR's new word from the old word and w[d] (R51). -/
def farResult (op : BitVec 4) (old x : Word) : Word :=
  let two (g : Nat → Nat → Nat) : Word :=
    BitVec.ofNat 64 (g (bits old 63 32) (bits x 63 32) * 2 ^ 32 + g (bits old 31 0) (bits x 31 0))
  match op.toNat with
  | 0 => old + x
  | 1 => if old.slt x then x else old
  | 2 => if x.slt old then x else old
  | 3 => old &&& x
  | 4 => old ||| x
  | 5 => old ^^^ x
  | 6 => BitVec.ofNat 64 (fF64.addCode rneMode old.toNat x.toNat)
  | 7 => two (fF32.addCode rneMode)
  | _ => two fF32.maxCode

end Sys2Proof.Machine
end

