-- ==== Sys2Proof/Syntax.lean ====
section
/-! DEFINITION. The steps of the part: one constructor per row of spec/opcode_table.json. The first 151 are the
instruction words of 08_encoding.md R133, with the fields that the table gives each word, each of its exact width.
The other 88 are the events that 95_what_each_step_holds.md calls steps of the part; their arguments name where the
event falls (a physical core, a slot, a partition, a queue, the place in a list of things in flight) and what the
outside agent supplies. -/
namespace Sys2Proof

inductive Instr where
  /-- ADD (R317): Writes the sum of w[a] and w[b] modulo 2^64 to w[d]. -/
  | add (d a b : Reg)
  /-- SUB (R317): Writes w[a] minus w[b] modulo 2^64 to w[d]. -/
  | sub (d a b : Reg)
  /-- AND (R317): Writes the bitwise and of w[a] and w[b] to w[d]. -/
  | and (d a b : Reg)
  /-- OR (R317): Writes the bitwise or of w[a] and w[b] to w[d]. -/
  | or (d a b : Reg)
  /-- XOR (R317): Writes the bitwise exclusive or of w[a] and w[b] to w[d]. -/
  | xor (d a b : Reg)
  /-- SHL (R317): Shifts w[a] left by bits 5:0 of w[b] into w[d]. -/
  | shl (d a b : Reg)
  /-- SHR (R317): Shifts w[a] right logically by bits 5:0 of w[b] into w[d]. -/
  | shr (d a b : Reg)
  /-- SRA (R317): Shifts w[a] right arithmetically by bits 5:0 of w[b] into w[d]. -/
  | sra (d a b : Reg)
  /-- SLT (R317): Writes 1 to w[d] if w[a] is less than w[b] signed, else 0. -/
  | slt (d a b : Reg)
  /-- SLTU (R317): Writes 1 to w[d] if w[a] is less than w[b] unsigned, else 0. -/
  | sltu (d a b : Reg)
  /-- MIN (R317): Writes the signed smaller of w[a] and w[b] to w[d]. -/
  | min (d a b : Reg)
  /-- MAX (R317): Writes the signed larger of w[a] and w[b] to w[d]. -/
  | max (d a b : Reg)
  /-- CLZ (R317): Writes the number of leading zero bits of w[a] to w[d], 64 for zero. -/
  | clz (d a : Reg)
  /-- CTZ (R317): Writes the number of trailing zero bits of w[a] to w[d], 64 for zero. -/
  | ctz (d a : Reg)
  /-- POPC (R317): Writes the number of set bits of w[a] to w[d]. -/
  | popc (d a : Reg)
  /-- SEL (R317): Writes w[a] to w[d] if w[c] is nonzero, else w[b]. -/
  | sel (d a b c : Reg)
  /-- ADDI (R318): Writes w[a] plus the sign-extended immediate modulo 2^64 to w[d]. -/
  | addi (d a : Reg) (i : BitVec 18)
  /-- ANDI (R318): Writes w[a] and the sign-extended immediate to w[d]. -/
  | andi (d a : Reg) (i : BitVec 18)
  /-- ORI (R318): Writes w[a] or the sign-extended immediate to w[d]. -/
  | ori (d a : Reg) (i : BitVec 18)
  /-- XORI (R318): Writes w[a] xor the sign-extended immediate to w[d]. -/
  | xori (d a : Reg) (i : BitVec 18)
  /-- SLTI (R318): Writes 1 to w[d] if w[a] is signed less than the sign-extended immediate, else 0. -/
  | slti (d a : Reg) (i : BitVec 18)
  /-- SHLI (R372): Shifts w[a] left by an immediate amount into w[d]. -/
  | shli (d a : Reg) (s : BitVec 6)
  /-- SHRI (R372): Shifts w[a] right logically by an immediate amount into w[d]. -/
  | shri (d a : Reg) (s : BitVec 6)
  /-- SRAI (R372): Shifts w[a] right arithmetically by an immediate amount into w[d]. -/
  | srai (d a : Reg) (s : BitVec 6)
  /-- LUI (R352): Writes the sign-extended 22-bit immediate shifted left by 18 to w[d]. -/
  | lui (d : Reg) (i : BitVec 22)
  /-- LUIH (R352): Replaces bits 63:42 of w[d] with the immediate and keeps bits 41:0. -/
  | luih (d : Reg) (i : BitVec 22)
  /-- ADDPC (R319): Writes the instruction's own address plus four times the sign-extended offset to w[d]. -/
  | addpc (d : Reg) (i : BitVec 22)
  /-- MUL (R330): Writes the low 64 bits of w[a] times w[b] to w[d] under lookahead. -/
  | mul (d a b l : Reg)
  /-- DIV (R330): Writes the signed quotient of w[a] by w[b], rounded toward zero, to w[d] under lookahead. -/
  | div (d a b l : Reg)
  /-- DIVU (R330): Writes the unsigned quotient of w[a] by w[b] to w[d] under lookahead. -/
  | divu (d a b l : Reg)
  /-- REM (R330): Writes the signed remainder of w[a] by w[b] to w[d] under lookahead. -/
  | rem (d a b l : Reg)
  /-- REMU (R330): Writes the unsigned remainder of w[a] by w[b] to w[d] under lookahead. -/
  | remu (d a b l : Reg)
  /-- BEQ (R323): Branches when w[a] equals w[b]. -/
  | beq (a b : Reg) (o : BitVec 15)
  /-- BNE (R323): Branches when w[a] differs from w[b]. -/
  | bne (a b : Reg) (o : BitVec 15)
  /-- BLT (R323): Branches when w[a] is signed less than w[b]. -/
  | blt (a b : Reg) (o : BitVec 15)
  /-- BGE (R323): Branches when w[a] is signed greater than or equal to w[b]. -/
  | bge (a b : Reg) (o : BitVec 15)
  /-- BLTU (R323): Branches when w[a] is unsigned less than w[b]. -/
  | bltu (a b : Reg) (o : BitVec 15)
  /-- BGEU (R323): Branches when w[a] is unsigned greater than or equal to w[b]. -/
  | bgeu (a b : Reg) (o : BitVec 15)
  /-- BANY (R323): Branches when w[a] and w[b] have a set bit in common. -/
  | bany (a b : Reg) (o : BitVec 15)
  /-- BNONE (R323): Branches when w[a] and w[b] have no set bit in common. -/
  | bnone (a b : Reg) (o : BitVec 15)
  /-- JAL (R343): Writes the return address to w[d] and jumps by the word offset. -/
  | jal (d : Reg) (o : BitVec 22)
  /-- JALR (R344): Jumps to w[a] plus four times the offset and links in w[d], trapping on a misaligned target. -/
  | jalr (d a : Reg) (i : BitVec 18)
  /-- RPT (R11): Captures and checks the next len words and runs them cnt times with register strides. -/
  | rpt (n : BitVec 8) (l d a b : Reg)
  /-- LD (R350): Loads a zero-extended byte, quarter, half or word into w[d], plain or relaxed, under lookahead. -/
  | ld (d a : Reg) (s : BitVec 2) (x : BitVec 1) (i : BitVec 10) (l : Reg)
  /-- LDS (R350): Loads a sign-extended byte, quarter or half into w[d], plain or relaxed, under lookahead. -/
  | lds (d a : Reg) (s : BitVec 2) (x : BitVec 1) (i : BitVec 10) (l : Reg)
  /-- ST (R373): Stores the low bytes of w[d] at the address, plain or relaxed, logging the old word when speculative. -/
  | st (d a : Reg) (s : BitVec 2) (x : BitVec 1) (i : BitVec 10)
  /-- LDF (R46): Waits until the word is full and loads it into w[d]. -/
  | ldf (d a : Reg) (i : BitVec 10) (l : Reg)
  /-- LDFE (R46): Waits until the word is full, loads it into w[d] and sets it empty in one step. -/
  | ldfe (d a : Reg) (i : BitVec 10) (l : Reg)
  /-- STF (R46): Stores w[d] into the word and sets it full, posting a task at a doorbell. -/
  | stf (d a : Reg) (i : BitVec 10)
  /-- STEF (R46): Waits until the word is empty, then stores w[d] and sets it full. -/
  | stef (d a : Reg) (i : BitVec 10)
  /-- FETEST (R46): Writes the full/empty bit of the word to w[d]. -/
  | fetest (d a : Reg) (i : BitVec 10) (l : Reg)
  /-- FESET (R46): Sets the full/empty bit of the word to bit 0 of w[d]. -/
  | feset (d a : Reg) (i : BitVec 10)
  /-- HOLD (R48): Sends a reservation for a word and receives its value into w[d] when granted. -/
  | hold (d a : Reg) (i : BitVec 10) (l : Reg)
  /-- RELEASE (R48): Writes w[d] to the held word, ends the hold and grants the next reservation. -/
  | release (d a : Reg) (i : BitVec 10)
  /-- FAR (R51): Combines w[d] into an SBM word at its bank by the selected operation, as a relaxed access. -/
  | far (d a o : Reg) (i : BitVec 10)
  /-- FENCE_GROUP (R95): Holds issue until prior relaxed accesses to the quad's local memories are performed. -/
  | fenceGroup
  /-- FENCE_DEVICE (R95): Holds issue until every prior relaxed access of the thread is performed. -/
  | fenceDevice
  /-- FENCE_SYSTEM (R97): Completes prior relaxed accesses and every prior host and peer store at its destination. -/
  | fenceSystem
  /-- FENCE_I (R335): Waits for prior stores, then invalidates the instruction cache of the issuing core. -/
  | fenceI
  /-- MIG (R68): Moves the thread to the core named by w[a] and writes a status to w[d]. -/
  | mig (d a : Reg)
  /-- WFLD (R74): Extracts WID field n of w[a] into w[d] using WIDW. -/
  | wfld (d a c : Reg)
  /-- WFW (R83): Parks until a work-list entry or dispenser task is available, then loads it into w1 to w4. -/
  | wfw (d : Reg)
  /-- WLPUSH (R87): Appends the entry (w[a], w[b]) to the core's work list or reports it full. -/
  | wlpush (d a b : Reg)
  /-- WLPOP (R87): Removes the newest work-list entry into w[d] and w[d+1], or reports the list empty. -/
  | wlpop (d a : Reg)
  /-- LAUNCH (R82): Reads and checks a launch record and queues the launch in the issuer's partition. -/
  | launch (d a l : Reg)
  /-- GANG (R60): Forms a gang of n cores in the issuer's row and writes a status. -/
  | gang (d c : Reg)
  /-- UNGANG (R380): Disbands the gang so every member continues as an independent thread. -/
  | ungang
  /-- YIELD (R89): Makes the thread ineligible for 64 cycles while keeping its rotation place. -/
  | yield
  /-- MFS (R358): Reads a special register into w[d], subject to privilege. -/
  | mfs (d : Reg) (c : BitVec 12)
  /-- MTS (R358): Writes w[a] to a special register, with the register's own side effects. -/
  | mts (a : Reg) (c : BitVec 12)
  /-- SENDV (R239): Sends a virtual-time message of up to 16 payload words to a thread handle. -/
  | sendv (d a b c : Reg)
  /-- RECVV (R240): Delivers the lowest unprocessed ring message, raising LVT with a checkpoint when needed. -/
  | recvv (d l : Reg)
  /-- MDONE (R241): Marks a delivered message of the thread's ring as done. -/
  | mdone (a : Reg)
  /-- ROLL (R247): Undoes rewind records down to a qualifying checkpoint and restores it. -/
  | roll (a : Reg)
  /-- DEFER (R251): Files a deferred effect in the core's commit queue at a virtual time. -/
  | defer (d a b : Reg)
  /-- AXBIND (R232): Binds the thread to a reduced or frame axis, or unbinds it, by the mode in w[c]. -/
  | axbind (a b c : Reg)
  /-- FOPEN (R277): Opens a frame at a VT with a checkpoint, or consumes a pending unwind. -/
  | fopen (d a : Reg)
  /-- FCONF (R278): Confirms a frame, removing confirmed frames older than the oldest open one. -/
  | fconf (d a : Reg)
  /-- FUNW (R278): Unwinds a frame and all later ones, discarding tokens and raising rollback events in bound threads. -/
  | funw (d a : Reg)
  /-- TOKEMIT (R275): Appends a token at a position to the frame axis's retirement buffer. -/
  | tokemit (d a b c : Reg)
  /-- ABOP (R263): Declares an abstract operation on an object for judgement at its home directory. -/
  | abop (d a b c : Reg)
  /-- TBEGIN (R254): Opens a boosted task at an even VT, pushing a checkpoint. -/
  | tbegin (a : Reg)
  /-- TEND (R255): Ends the open boosted task and raises LVT past its VT. -/
  | tend
  /-- VADD (R384): Adds vector lanes under the mask. -/
  | vadd (d a b : Reg) (m : BitVec 2) (e : Reg) (r : BitVec 2)
  /-- VSUB (R384): Subtracts vector lanes under the mask. -/
  | vsub (d a b : Reg) (m : BitVec 2) (e : Reg) (r : BitVec 2)
  /-- VMUL (R384): Multiplies vector lanes under the mask. -/
  | vmul (d a b : Reg) (m : BitVec 2) (e : Reg) (r : BitVec 2)
  /-- VFMA (R384): Computes a times b plus d per lane with one rounding. -/
  | vfma (d a b : Reg) (m : BitVec 2) (e : Reg) (r : BitVec 2)
  /-- VMIN (R384): Writes the smaller of each lane pair. -/
  | vmin (d a b : Reg) (m : BitVec 2) (e : Reg)
  /-- VMAX (R384): Writes the larger of each lane pair. -/
  | vmax (d a b : Reg) (m : BitVec 2) (e : Reg)
  /-- VAND (R384): Writes the bitwise and of each lane pair. -/
  | vand (d a b : Reg) (m : BitVec 2) (e : Reg)
  /-- VOR (R384): Writes the bitwise or of each lane pair. -/
  | vor (d a b : Reg) (m : BitVec 2) (e : Reg)
  /-- VXOR (R384): Writes the bitwise exclusive or of each lane pair. -/
  | vxor (d a b : Reg) (m : BitVec 2) (e : Reg)
  /-- VSHL (R384): Shifts integer lanes left by per-lane amounts. -/
  | vshl (d a b : Reg) (m : BitVec 2) (e : Reg)
  /-- VSHR (R384): Shifts integer lanes right by per-lane amounts. -/
  | vshr (d a b : Reg) (m : BitVec 2) (e : Reg)
  /-- VCMP (R387): Compares lanes by the condition and writes the results into a mask register. -/
  | vcmp (d a b : Reg) (c : BitVec 3) (m : BitVec 2) (e : Reg)
  /-- VSEL (R395): Copies enabled lanes of v[a] into v[d]. -/
  | vsel (d a : Reg) (m : BitVec 2) (e : Reg)
  /-- MAND (R353): Writes the and of two mask registers. -/
  | mand (d a b : Reg)
  /-- MOR (R353): Writes the or of two mask registers. -/
  | mor (d a b : Reg)
  /-- MNOT (R353): Writes the complement of a mask register. -/
  | mnot (d a : Reg)
  /-- MFIRST (R357): Writes the index of the lowest set mask bit at or above a start index, or 64. -/
  | mfirst (d a b : Reg)
  /-- VRED (R394): Reduces enabled lanes by sum, max or min in ascending order and writes the result to enabled lanes. -/
  | vred (d a o : Reg) (m : BitVec 2) (e : Reg) (r : BitVec 2)
  /-- VPERM (R385): Permutes lanes of v[a] by indices in v[b]. -/
  | vperm (d a b : Reg) (m : BitVec 2) (e : Reg)
  /-- VBCAST (R385): Broadcasts the low bits of w[a] into every enabled lane. -/
  | vbcast (d a : Reg) (m : BitVec 2) (e : Reg)
  /-- VMOVS (R385): Moves one lane of v[a] into a scalar register. -/
  | vmovs (d a b e : Reg)
  /-- VIOTA (R385): Fills enabled lanes with w[a] plus the lane index. -/
  | viota (d a : Reg) (m : BitVec 2) (e : Reg)
  /-- VEXP2 (R392): Computes 2^x per f32 lane, correctly rounded. -/
  | vexp2 (d a : Reg) (m r : BitVec 2)
  /-- VLOG2 (R392): Computes log2 per f32 lane, correctly rounded. -/
  | vlog2 (d a : Reg) (m r : BitVec 2)
  /-- VRCP (R392): Computes the reciprocal per f32 lane, correctly rounded. -/
  | vrcp (d a : Reg) (m r : BitVec 2)
  /-- VRSQ (R392): Computes the reciprocal square root per f32 lane, correctly rounded. -/
  | vrsq (d a : Reg) (m r : BitVec 2)
  /-- VLD (R393): Loads an aligned 64-byte granule into v[d] under lookahead. -/
  | vld (d a : Reg) (i : BitVec 6) (l : Reg)
  /-- VST (R393): Stores v[d] to an aligned 64-byte granule. -/
  | vst (d a : Reg) (i : BitVec 6)
  /-- VLDS (R393): Loads sixteen 32-bit elements at a byte stride into v[d]. -/
  | vlds (d a b : Reg) (i : BitVec 6) (l : Reg)
  /-- VGAT (R393): Gathers sixteen 32-bit elements at offsets from v[b] into v[d]. -/
  | vgat (d a b : Reg) (i : BitVec 6) (l : Reg)
  /-- VCVT (R388): Converts lanes from the source type st into the destination type. -/
  | vcvt (d a s : Reg) (m : BitVec 2) (e : Reg) (r : BitVec 2)
  /-- VQNT (R390): Quantises 16 f32 lanes into a packed narrow format under a scale code. -/
  | vqnt (d a b : Reg) (m : BitVec 2) (f : Reg)
  /-- VDQNT (R391): Dequantises a packed narrow group into 16 f32 lanes under a scale code. -/
  | vdqnt (d a b : Reg) (m : BitVec 2) (f : Reg) (r : BitVec 2)
  /-- VBFLY (R123): Performs eight complex radix-2 butterflies, writing both v[d] and v[a]. -/
  | vbfly (d a b : Reg) (m : BitVec 2)
  /-- VTWID (R124): Writes eight correctly rounded complex twiddle factors into v[d]. -/
  | vtwid (d a b : Reg) (m : BitVec 2)
  /-- VBOUND (R215): Computes per-lane upper bounds of query times key interval. -/
  | vbound (d a b : Reg) (m : BitVec 2) (e : Reg) (r : BitVec 2)
  /-- VTOPK (R218): Inserts a candidate value and index into a sorted top-k register pair. -/
  | vtopk (d a b : Reg) (m : BitVec 2) (e : Reg)
  /-- VGUMB (R223): Turns uniform variates into Gumbel noise by four fixed steps. -/
  | vgumb (d a : Reg) (m : BitVec 2)
  /-- VRNG (R222): Replaces draw indices with counter-based generator outputs or uniforms. -/
  | vrng (d a b : Reg) (m : BitVec 2) (e : Reg)
  /-- VGMASK (R229): Sets to minus infinity every enabled lane whose bit in w[a] is clear. -/
  | vgmask (d a : Reg) (m : BitVec 2) (e : Reg)
  /-- MMA (R360): Queues a matrix multiply-accumulate of K-steps from two operand rings into an accumulator. -/
  | mma (c : BitVec 2) (a b : BitVec 3) (x y : BitVec 2) (z : BitVec 1) (k : BitVec 8) (u : BitVec 1)
  /-- MCFG (R143): Replaces the core's matrix format configuration or reports refusal. -/
  | mcfg (d a : Reg)
  /-- MRING (R145): Installs an operand ring descriptor for the core. -/
  | mring (d a : Reg)
  /-- RPUSH (R147): Counts tiles as pushed to a ring and returns the free slot count. -/
  | rpush (d a c : Reg)
  /-- MZERO (R152): Zeroes an accumulator at its turn in the matrix queue. -/
  | mzero (c : Reg)
  /-- MST (R152): Stores an accumulator in the f32 or f64 view to quad local memory. -/
  | mst (a b c : Reg)
  /-- MDUP (R151): Loads the 1,024-bit duplication map from quad local memory. -/
  | mdup (a : Reg)
  /-- CPY (R180): Checks and queues a copy job and returns its job number. -/
  | cpy (d a b c l : Reg)
  /-- CPYW (R184): Waits for a copy or gather job to leave the running states and returns its result. -/
  | cpyw (d a l : Reg)
  /-- CPYRES (R185): Resumes a faulted copy or gather job. -/
  | cpyres (d a : Reg)
  /-- GATH (R188): Reads a gather descriptor and queues a page gather job. -/
  | gath (d a l : Reg)
  /-- COLL (R192): Reads a collective descriptor and joins the tagged collective instance. -/
  | coll (d a l : Reg)
  /-- BAR (R196): Fences, waits for the thread's jobs and arrives at a partition barrier. -/
  | bar (d a l : Reg)
  /-- QUIES (R365): Waits until the partition has been idle for 2,048 cycles and returns the span's start time. -/
  | quies (d l : Reg)
  /-- BHASH (R200): Hashes a block of 16 tokens onto the previous block hash. -/
  | bhash (d a b l : Reg)
  /-- PFXLOOK (R205): Looks up a key's tag in the prefix table bucket without changing it. -/
  | pfxlook (d a b l : Reg)
  /-- PFXINS (R206): Under a bucket hold, pins an entry holding the key's tag or claims one for it. -/
  | pfxins (d a b l : Reg)
  /-- PFXPIN (R208): Pins a ready prefix entry after checking its full tag. -/
  | pfxpin (d a b c l : Reg)
  /-- PFXUNPIN (R209): Decrements a prefix entry's pin count. -/
  | pfxunpin (d a b l : Reg)
  /-- ANCM (R211): Returns the ancestry mask of a node in a 64-node parent-pointer table. -/
  | ancm (d a b l : Reg)
  /-- KVAPP (R346): Appends one token row to a KV cache and advances its length, as a kind-0 operation when speculative. -/
  | kvapp (d a b c l : Reg)
  /-- UTFB (R282): Feeds one byte to the UTF-8 assembler state and returns a code point, byte token or nothing. -/
  | utfb (d a b : Reg)
  /-- TRIE (R283): Steps a greedy longest-match vocabulary trie by one symbol. -/
  | trie (d a b c : Reg)
  /-- ECALL (R161): Traps with cause 0x10 and the service number in TVAL. -/
  | ecall (n : BitVec 12)
  /-- EBRK (R161): Traps with cause 0x11, or starts a gang stop when break-to-debugger is enabled. -/
  | ebrk (n : BitVec 12)
  /-- TRET (R378): Returns from a trap to TEPC at base privilege, resuming frames and held accesses. -/
  | tret
  /-- WAITI (R396): Parks until an interrupt is pending when IE is set. -/
  | waiti
  /-- HALT (R341): Drains the thread's accesses and jobs, releases its hold, unbinds it and frees its slot. -/
  | halt
  /-- LAUNCH_COMMAND (R290): Host command that submits a launch record in the queue's partition. -/
  | launchCommand (q : BitVec 12) (done rec : Word)
  /-- COPY_COMMAND (R290): Host command that copies a range by the front end and completes when every write is complete. -/
  | copyCommand (q : BitVec 12) (done dst src len : Word)
  /-- SIGNAL (R290): Host command that performs an STF of a value at an address, posting a task at a doorbell. -/
  | signal (q : BitVec 12) (done addr value : Word)
  /-- WAIT_COMMAND (R290): Host command that holds its queue until a word is full. -/
  | waitCommand (q : BitVec 12) (done addr : Word)
  /-- PARTITION_CREATE (R291): Creates a partition from a descriptor and starts its supervisor runtime thread. -/
  | partitionCreate (q : BitVec 12) (done desc : Word)
  /-- PARTITION_RESIZE (R291): Resizes a partition, keeping its origin. -/
  | partitionResize (q : BitVec 12) (done : Word) (tpart : BitVec 6) (desc : Word)
  /-- PARTITION_SET_LIMITS (R291): Sets the watchdog limit and levelling interval of a partition. -/
  | partitionSetLimits (q : BitVec 12) (done : Word) (tpart : BitVec 6) (desc : Word)
  /-- PREEMPT_VACATE (R168): Vacates a logical rectangle of a victim partition into shadow storage after notice. -/
  | preemptVacate (q : BitVec 12) (done : Word) (tpart : BitVec 6) (arg0 rect save : Word)
  /-- PREEMPT_SWITCH_OUT (R171): Switches a whole partition out to its save area and shadow storage. -/
  | preemptSwitchOut (q : BitVec 12) (done : Word) (tpart : BitVec 6) (arg0 save : Word)
  /-- PREEMPT_SWITCH_IN (R292): Restores a switched-out partition onto its former cores. -/
  | preemptSwitchIn (q : BitVec 12) (done : Word) (tpart : BitVec 6) (save : Word)
  /-- PREEMPT_RETURN (R170): Returns vacated cores to the victim partition in reverse order. -/
  | preemptReturn (q : BitVec 12) (done : Word) (tpart : BitVec 6) (rect save : Word)
  /-- TEARDOWN (R81): Ends every uncompleted launch of a partition and removes the partition. -/
  | teardown (q : BitVec 12) (done : Word) (tpart : BitVec 6)
  /-- NOTIFY_WRITE (R288): Host write of PROD to a queue's notify page announcing new command records. -/
  | notifyWrite (q : BitVec 12) (prod : Half)
  /-- COMMAND_FETCH (R288): Front end reads the next command record and executes it when its SEQ matches. -/
  | commandFetch (q : BitVec 12)
  /-- COMMAND_RECORD_REFETCH (R288): After 2,000 cycles the front end rereads a record whose SEQ mismatched, setting STALE after sixteen tries. -/
  | commandRecordRefetch (q : BitVec 12)
  /-- QUEUE_ENABLE (R286): Writing EN to a queue descriptor starts the queue with CONS at 0. -/
  | queueEnable (q : BitVec 12) (v : Word)
  /-- QUEUE_STALE_CLEAR (R288): Clearing STALE restarts fetching at the stalled record. -/
  | queueStaleClear (q : BitVec 12)
  /-- INTR (R162): Host write to a partition's INTR register raises interrupt source 0 in a slot. -/
  | intr (p : BitVec 6) (handle : Word)
  /-- GO (R292): Host write of GO resumes a halted partition. -/
  | go (p : BitVec 6)
  /-- STOP (R292): Host write of STOP starts a gang stop of the partition. -/
  | stop (p : BitVec 6)
  /-- ERHEAD (R293): Host write of the effect ring head frees entries so waiting effects may proceed. -/
  | erhead (p : BitVec 6) (v : Word)
  /-- AXIS_DESCRIPTOR_WORD0_WRITE (R294): Write to word 0 of a frame axis descriptor allots the axis and restarts the tail count. -/
  | axisDescriptorWord0Write (ax : BitVec 14) (v : Word)
  /-- AXIS_TOKEN_RING_HEAD (R280): Host write of a token ring head frees room so retirement may continue. -/
  | axisTokenRingHead (ax : BitVec 14) (v : Word)
  /-- TRACE_RING_ENABLE (R102): Enabling a core's trace ring starts logging port writes from SEQ 0. -/
  | traceRingEnable (c : Cid)
  /-- RECEIVE_LOG_ENABLE (R174): Enabling receive logging starts recording every arrival at a core. -/
  | receiveLogEnable (c : Cid)
  /-- REGISTER_WRITE (R3): A write to a register without behaviour of its own stores its writable fields. -/
  | registerWrite (off : BitVec 22) (v : Word)
  /-- HOST_BAR2_WRITE (R98): Host write into module HBM through BAR2 under key index 0. -/
  | hostBar2Write (off : BitVec 41) (sz : BitVec 2) (v : Word)
  /-- HOST_BAR2_READ (R98): Host read of module HBM through BAR2 returning data. -/
  | hostBar2Read (off : BitVec 41) (sz : BitVec 2)
  /-- SLOT_POPULATION (R76): The front end populates a free slot with the next work identifier of the chosen launch. -/
  | slotPopulation (p : BitVec 6)
  /-- LAUNCH_AGING (R78): A launch without population for 2,000,000 cycles is marked aged. -/
  | launchAging (id : Half)
  /-- LAUNCH_COMPLETION (R79): Once every identifier has issued and every thread halted, the completion word is written. -/
  | launchCompletion (id : Half)
  /-- ENERGY_REFILL (R64): Every 1,024 cycles each active slot's EBUD is refilled from ALLOW. -/
  | energyRefill (c : Cid)
  /-- YIELD_EXPIRY (R89): After 64 cycles a yielding thread becomes eligible again. -/
  | yieldExpiry (t : Tid)
  /-- BARREL_ISSUE (R56): Each cycle the core issues one instruction from the first eligible slot in rotation. -/
  | barrelIssue (c : Cid)
  /-- RESULT_WRITEBACK (R57): A long-latency result arrives and is written, ending its pending state. -/
  | resultWriteback (t : Tid) (r : BitVec 5)
  /-- STORE_ACKNOWLEDGE (R92): The owning memory acknowledges a plain store so the thread's next plain access may proceed. -/
  | storeAcknowledge (t : Tid)
  /-- PARKED_THREAD_WAKE (R69): A parked thread's cause clears and it rejoins the rotation to complete its instruction. -/
  | parkedThreadWake (t : Tid)
  /-- WAIT_LIST_RESEND (R47): A request refused by a full wait list is sent again after 256 cycles. -/
  | waitListResend (t : Tid)
  /-- HOLD_TIMEOUT (R50): After 65,536 cycles of a hold the hold-timeout cause becomes pending in the holder. -/
  | holdTimeout (t : Tid)
  /-- ASYNC_TRAP_ENTRY (R160): A pending asynchronous cause is taken at an instruction boundary and the thread enters its handler. -/
  | asyncTrapEntry (t : Tid)
  /-- WATCHDOG_EXPIRY (R176): The partition watchdog reaches its limit, giving every thread cause 0x14 or failing the partition on a second expiry. -/
  | watchdogExpiry (p : BitVec 6)
  /-- REWIND_STACK_FULL_TIMEOUT (R248): An instruction parked 65,536 cycles for stack room takes trap 0x0D. -/
  | rewindStackFullTimeout (t : Tid)
  /-- TLB_MISS_WALK (R42): A TLB miss is resolved by the second-level TLB or a page walk that installs the translation. -/
  | tlbMissWalk (t : Tid) (va : Word)
  /-- CORE_MAP_MISS_FILL (R34): A network interface fetches a missing logical core map entry from SBM. -/
  | coreMapMissFill (c : Cid) (lcoord : BitVec 13)
  /-- ROAM_MIGRATION_ARRIVAL (R67): A migrating thread's message reaches the target, which seats it in a free slot or returns it. -/
  | roamMigrationArrival (n : Half)
  /-- LEVELLING_INTERVAL (R88): At each levelling interval cores sample list lengths and send entries to the shortest neighbour. -/
  | levellingInterval (p : BitVec 6)
  /-- LEVELLING_ARRIVAL (R88): Levelled entries arrive and are appended, with overflow returned to the sender. -/
  | levellingArrival (n : Half)
  /-- MESSAGE_ARRIVAL (R237): A message arrives at a receiver's ring and is accepted, refused with a NAK or discarded. -/
  | messageArrival (n : Half)
  /-- ANTI_MESSAGE_ARRIVAL (R249): An anti-message meets its positive, voiding it, holding and raising an event, or being discarded. -/
  | antiMessageArrival (n : Half)
  /-- MESSAGE_ACKNOWLEDGE (R238): A receiver's acknowledgement frees the sender's retry buffer entry. -/
  | messageAcknowledge (n : Half)
  /-- MESSAGE_RESEND (R238): A refused message is sent again 256 cycles after its NAK, followed by the pair's later arrivals. -/
  | messageResend (n : Half)
  /-- ROLLBACK_EVENT_VECTOR (R243): A pending rollback event is taken at the next issue with SP clear and vectors to RBVEC. -/
  | rollbackEventVector (t : Tid)
  /-- HORIZON_ROUND_START (R234): Every 128 cycles a horizon round's start pulse makes every core sample its contributions. -/
  | horizonRoundStart (p ax : BitVec 6)
  /-- HORIZON_ROUND_CLOSE (R234): The root closes a round, computes the horizon and broadcasts HZN to every core. -/
  | horizonRoundClose (p ax : BitVec 6)
  /-- DIRECTORY_CASCADE_EVENT (R267): The directory sends the next cascade rollback event once the previous task's entries have left. -/
  | directoryCascadeEvent (n : Half)
  /-- DEFERRED_EFFECT_PERFORM (R252): A core performs its next passed commit-queue entry as a store, STF or host effect ring POST. -/
  | deferredEffectPerform (c : Cid)
  /-- TOKEN_RETIREMENT_BATCH (R281): Tokens below the frame horizon retire and are published to the host ring in a batch with one tail write. -/
  | tokenRetirementBatch (ax : BitVec 14)
  /-- FRAME_AXIS_RESET (R272): After its last thread unbinds and its buffer and held effects drain, a frame axis is reset. -/
  | frameAxisReset (ax : BitVec 14)
  /-- VECTOR_ENGINE_START (R156): The vector engine starts the next queued instruction once its register dependences allow. -/
  | vectorEngineStart (c : Cid)
  /-- MATRIX_QUEUE_HEAD (R144): A matrix instruction leaves the core's queue and takes effect, an MMA capturing its context and being checked. -/
  | matrixQueueHead (c : Cid)
  /-- MMA_STEP (R148): The unit grants a K-step to a core whose tiles are pushed, computes it and pops the tiles. -/
  | mmaStep (c : Cid)
  /-- COPY_JOB_START (R103): The job scheduler starts a queued copy or gather job once overlapping earlier jobs retire. -/
  | copyJobStart (c : Cid) (j : BitVec 4)
  /-- COPY_GRANULE (R181): A running job reads and writes its next 64-byte granule, retiring DONE after the last. -/
  | copyGranule (c : Cid) (j : BitVec 4)
  /-- GATH_WALK (R189): The table walker reads the list and chain words of a gather job. -/
  | gathWalk (c : Cid) (j : BitVec 4)
  /-- COLL_MATCH (R192): Once all participants of a tag arrive the collective engine reads inputs, combines and writes results. -/
  | collMatch (tag : Word)
  /-- BARRIER_ARRIVAL (R196): A barrier arrival reaches the tree root and may complete the generation. -/
  | barrierArrival (t : Tid)
  /-- QUIESCENCE_SPAN_COMPLETE (R197): The partition idle AND holds for 2,048 cycles and pending QUIES results are written. -/
  | quiescenceSpanComplete (p : BitVec 6)
  /-- PEER_REQUEST_ARRIVAL (R296): An access from a peer module arrives over a Gliuth link and is performed at the owning memory. -/
  | peerRequestArrival (mm : BitVec 6) (op : BitVec 4) (phys : BitVec 41) (sz : BitVec 2) (v : Word)
  /-- LINK_DOWN (R297): A link that fails to deliver for 2,000,000 cycles is marked down and its posted stores discarded. -/
  | linkDown (n : BitVec 5)
  /-- REPLAY_DELIVERY (R175): In replay mode a core re-delivers a logged arrival at its logged cycle. -/
  | replayDelivery (c : Cid)
  /-- POWER_THROTTLE (R29): Near the power limit firmware withholds issue cycles uniformly on affected dies. -/
  | powerThrottle (dies cycles : BitVec 16)
  /-- IN_FIELD_TEST_START (R177): Firmware swaps an idle core's memory to shadow storage and runs its self-test. -/
  | inFieldTestStart (c : Cid)
  /-- IN_FIELD_TEST_COMPLETE (R177): The self-test ends, the memory is swapped back and a failing core is moved to its shadow slice. -/
  | inFieldTestComplete (c : Cid) (pass : Bool)
  /-- IN_FIELD_TEST_ABORT (R177): A priority-0 launch that could use the core aborts the test. -/
  | inFieldTestAbort (c : Cid)
  /-- QUAD_REPLACEMENT (R177): Once a failing core's quad is idle firmware maps it onto a spare quad and copies the memories. -/
  | quadReplacement (bad spare : Cid)
  /-- FWLEASE_RENEW (R298): The leading firmware core renews its lease every 2 ms. -/
  | fwleaseRenew
  /-- FWLEASE_TAKEOVER (R298): When the lease expires followers attempt takeover and the new leader resumes journalled commands. -/
  | fwleaseTakeover (die : BitVec 4)
  /-- POWER_GOOD (R303): Power-good starts the module, reaching stage 0 within 50 ms. -/
  | powerGood
  /-- STAGE_1_REACHED (R303): Dies are tested and HBM trained and BAR0 becomes readable. -/
  | stage1Reached (dieOk : BitVec 16)
  /-- STAGE_2_REACHED (R303): The module reaches full function, clears FAILS and acts on the latest PROD values. -/
  | stage2Reached
  /-- START_FAILURE (R303): A failed start increments FAILS and resets, entering minimal mode at three failures. -/
  | startFailure (reason : Byte)
  /-- START_TIMEOUT (R302): Stage 2 not reached within 30 s fails the start with reason 5. -/
  | startTimeout
  /-- PLDM_PLATFORM_MONITORING (R299): A PLDM monitoring request over MCTP returns power, temperature and link state. -/
  | pldmPlatformMonitoring
  /-- PLDM_FIRMWARE_UPDATE (R299): A PLDM firmware update transfers and verifies an image into the inactive slot. -/
  | pldmFirmwareUpdate (component : Bool) (image : Word) (verified : Bool)
  /-- PLDM_RESET (R303): A reset requested over PLDM after activation clears FAILS and restarts from stage 0. -/
  | pldmReset
  /-- SPDM_ATTESTATION (R300): An SPDM request returns signed measurements of firmware, configuration and identity. -/
  | spdmAttestation
  /-- POSTED_STORE_COMPLETION (R97): The non-posted flush read sent behind a thread's host stores returns, or a peer link acknowledges its posted stores, and a waiting FENCE system completes. -/
  | postedStoreCompletion (t : Tid)
  /-- MOVE_CONFIRMATION (R67): The confirmation of a move, or the returned thread, reaches the home core, which frees the reserved home slot or resumes the thread in it. -/
  | moveConfirmation (n : Half)
  deriving DecidableEq, Repr

end Sys2Proof
end

