-- ==== Sys2Proof/WellFormed.lean ====
section
/-! DEFINITION. What an instruction word may name (08_encoding.md R135 checks 1 and 3 to 5, and the encoding checks
that an instruction's own entry lists). An instruction is well formed when its word passes the decoder; an event of
the table has no word and is never well formed as an instruction word. -/
namespace Sys2Proof

/-- Whether the step is an instruction word; the other rows of the table are events. -/
def Instr.isWord : Instr → Bool
  | .add _ _ _ => true
  | .sub _ _ _ => true
  | .and _ _ _ => true
  | .or _ _ _ => true
  | .xor _ _ _ => true
  | .shl _ _ _ => true
  | .shr _ _ _ => true
  | .sra _ _ _ => true
  | .slt _ _ _ => true
  | .sltu _ _ _ => true
  | .min _ _ _ => true
  | .max _ _ _ => true
  | .clz _ _ => true
  | .ctz _ _ => true
  | .popc _ _ => true
  | .sel _ _ _ _ => true
  | .addi _ _ _ => true
  | .andi _ _ _ => true
  | .ori _ _ _ => true
  | .xori _ _ _ => true
  | .slti _ _ _ => true
  | .shli _ _ _ => true
  | .shri _ _ _ => true
  | .srai _ _ _ => true
  | .lui _ _ => true
  | .luih _ _ => true
  | .addpc _ _ => true
  | .mul _ _ _ _ => true
  | .div _ _ _ _ => true
  | .divu _ _ _ _ => true
  | .rem _ _ _ _ => true
  | .remu _ _ _ _ => true
  | .beq _ _ _ => true
  | .bne _ _ _ => true
  | .blt _ _ _ => true
  | .bge _ _ _ => true
  | .bltu _ _ _ => true
  | .bgeu _ _ _ => true
  | .bany _ _ _ => true
  | .bnone _ _ _ => true
  | .jal _ _ => true
  | .jalr _ _ _ => true
  | .rpt _ _ _ _ _ => true
  | .ld _ _ _ _ _ _ => true
  | .lds _ _ _ _ _ _ => true
  | .st _ _ _ _ _ => true
  | .ldf _ _ _ _ => true
  | .ldfe _ _ _ _ => true
  | .stf _ _ _ => true
  | .stef _ _ _ => true
  | .fetest _ _ _ _ => true
  | .feset _ _ _ => true
  | .hold _ _ _ _ => true
  | .release _ _ _ => true
  | .far _ _ _ _ => true
  | .fenceGroup => true
  | .fenceDevice => true
  | .fenceSystem => true
  | .fenceI => true
  | .mig _ _ => true
  | .wfld _ _ _ => true
  | .wfw _ => true
  | .wlpush _ _ _ => true
  | .wlpop _ _ => true
  | .launch _ _ _ => true
  | .gang _ _ => true
  | .ungang => true
  | .yield => true
  | .mfs _ _ => true
  | .mts _ _ => true
  | .sendv _ _ _ _ => true
  | .recvv _ _ => true
  | .mdone _ => true
  | .roll _ => true
  | .defer _ _ _ => true
  | .axbind _ _ _ => true
  | .fopen _ _ => true
  | .fconf _ _ => true
  | .funw _ _ => true
  | .tokemit _ _ _ _ => true
  | .abop _ _ _ _ => true
  | .tbegin _ => true
  | .tend => true
  | .vadd _ _ _ _ _ _ => true
  | .vsub _ _ _ _ _ _ => true
  | .vmul _ _ _ _ _ _ => true
  | .vfma _ _ _ _ _ _ => true
  | .vmin _ _ _ _ _ => true
  | .vmax _ _ _ _ _ => true
  | .vand _ _ _ _ _ => true
  | .vor _ _ _ _ _ => true
  | .vxor _ _ _ _ _ => true
  | .vshl _ _ _ _ _ => true
  | .vshr _ _ _ _ _ => true
  | .vcmp _ _ _ _ _ _ => true
  | .vsel _ _ _ _ => true
  | .mand _ _ _ => true
  | .mor _ _ _ => true
  | .mnot _ _ => true
  | .mfirst _ _ _ => true
  | .vred _ _ _ _ _ _ => true
  | .vperm _ _ _ _ _ => true
  | .vbcast _ _ _ _ => true
  | .vmovs _ _ _ _ => true
  | .viota _ _ _ _ => true
  | .vexp2 _ _ _ _ => true
  | .vlog2 _ _ _ _ => true
  | .vrcp _ _ _ _ => true
  | .vrsq _ _ _ _ => true
  | .vld _ _ _ _ => true
  | .vst _ _ _ => true
  | .vlds _ _ _ _ _ => true
  | .vgat _ _ _ _ _ => true
  | .vcvt _ _ _ _ _ _ => true
  | .vqnt _ _ _ _ _ => true
  | .vdqnt _ _ _ _ _ _ => true
  | .vbfly _ _ _ _ => true
  | .vtwid _ _ _ _ => true
  | .vbound _ _ _ _ _ _ => true
  | .vtopk _ _ _ _ _ => true
  | .vgumb _ _ _ => true
  | .vrng _ _ _ _ _ => true
  | .vgmask _ _ _ _ => true
  | .mma _ _ _ _ _ _ _ _ => true
  | .mcfg _ _ => true
  | .mring _ _ => true
  | .rpush _ _ _ => true
  | .mzero _ => true
  | .mst _ _ _ => true
  | .mdup _ => true
  | .cpy _ _ _ _ _ => true
  | .cpyw _ _ _ => true
  | .cpyres _ _ => true
  | .gath _ _ _ => true
  | .coll _ _ _ => true
  | .bar _ _ _ => true
  | .quies _ _ => true
  | .bhash _ _ _ _ => true
  | .pfxlook _ _ _ _ => true
  | .pfxins _ _ _ _ => true
  | .pfxpin _ _ _ _ _ => true
  | .pfxunpin _ _ _ _ => true
  | .ancm _ _ _ _ => true
  | .kvapp _ _ _ _ _ => true
  | .utfb _ _ _ => true
  | .trie _ _ _ _ => true
  | .ecall _ => true
  | .ebrk _ => true
  | .tret => true
  | .waiti => true
  | .halt => true
  | .launchCommand _ _ _ => false
  | .copyCommand _ _ _ _ _ => false
  | .signal _ _ _ _ => false
  | .waitCommand _ _ _ => false
  | .partitionCreate _ _ _ => false
  | .partitionResize _ _ _ _ => false
  | .partitionSetLimits _ _ _ _ => false
  | .preemptVacate _ _ _ _ _ _ => false
  | .preemptSwitchOut _ _ _ _ _ => false
  | .preemptSwitchIn _ _ _ _ => false
  | .preemptReturn _ _ _ _ _ => false
  | .teardown _ _ _ => false
  | .notifyWrite _ _ => false
  | .commandFetch _ => false
  | .commandRecordRefetch _ => false
  | .queueEnable _ _ => false
  | .queueStaleClear _ => false
  | .intr _ _ => false
  | .go _ => false
  | .stop _ => false
  | .erhead _ _ => false
  | .axisDescriptorWord0Write _ _ => false
  | .axisTokenRingHead _ _ => false
  | .traceRingEnable _ => false
  | .receiveLogEnable _ => false
  | .registerWrite _ _ => false
  | .hostBar2Write _ _ _ => false
  | .hostBar2Read _ _ => false
  | .slotPopulation _ => false
  | .launchAging _ => false
  | .launchCompletion _ => false
  | .energyRefill _ => false
  | .yieldExpiry _ => false
  | .barrelIssue _ => false
  | .resultWriteback _ _ => false
  | .storeAcknowledge _ => false
  | .parkedThreadWake _ => false
  | .waitListResend _ => false
  | .holdTimeout _ => false
  | .asyncTrapEntry _ => false
  | .watchdogExpiry _ => false
  | .rewindStackFullTimeout _ => false
  | .tlbMissWalk _ _ => false
  | .coreMapMissFill _ _ => false
  | .roamMigrationArrival _ => false
  | .levellingInterval _ => false
  | .levellingArrival _ => false
  | .messageArrival _ => false
  | .antiMessageArrival _ => false
  | .messageAcknowledge _ => false
  | .messageResend _ => false
  | .rollbackEventVector _ => false
  | .horizonRoundStart _ _ => false
  | .horizonRoundClose _ _ => false
  | .directoryCascadeEvent _ => false
  | .deferredEffectPerform _ => false
  | .tokenRetirementBatch _ => false
  | .frameAxisReset _ => false
  | .vectorEngineStart _ => false
  | .matrixQueueHead _ => false
  | .mmaStep _ => false
  | .copyJobStart _ _ => false
  | .copyGranule _ _ => false
  | .gathWalk _ _ => false
  | .collMatch _ => false
  | .barrierArrival _ => false
  | .quiescenceSpanComplete _ => false
  | .peerRequestArrival _ _ _ _ _ => false
  | .linkDown _ => false
  | .replayDelivery _ => false
  | .powerThrottle _ _ => false
  | .inFieldTestStart _ => false
  | .inFieldTestComplete _ _ => false
  | .inFieldTestAbort _ => false
  | .quadReplacement _ _ => false
  | .fwleaseRenew => false
  | .fwleaseTakeover _ => false
  | .powerGood => false
  | .stage1Reached _ => false
  | .stage2Reached => false
  | .startFailure _ => false
  | .startTimeout => false
  | .pldmPlatformMonitoring => false
  | .pldmFirmwareUpdate _ _ _ => false
  | .pldmReset => false
  | .spdmAttestation => false
  | .postedStoreCompletion _ => false
  | .moveConfirmation _ => false

/-- Selector values carried by a named field are listed ones (R133, R134, R143, R394). -/
def Instr.selectorOk : Instr → Bool
  | .far _ _ o _ => o ≤ 8
  | .lds _ _ s _ _ _ => s ≠ 3
  | .vcmp _ _ _ c _ _ => c ≤ 5
  | .vred _ _ o _ _ _ => o ≤ 2
  | .wfld _ _ c => c ≤ 5
  | .gang _ c => 1 ≤ c && c ≤ 3
  | .rpush _ _ c => c ≤ 7
  | .mzero c => c ≤ 3
  | .mst _ b c => b ≤ 1 && c ≤ 3
  | _ => true

/-- Register fields are in range: masks below 4, pairs even (R135 check 3, R158), and the register clashes that
R87, R282, R283, R366 and R386 forbid. -/
def Instr.registersOk : Instr → Bool
  | .vcmp d _ _ _ _ _ => d ≤ 3
  | .mand d a b => d ≤ 3 && a ≤ 3 && b ≤ 3
  | .mor d a b => d ≤ 3 && a ≤ 3 && b ≤ 3
  | .mnot d a => d ≤ 3 && a ≤ 3
  | .mfirst _ a _ => a ≤ 3
  | .vbound _ _ b _ _ _ => b &&& 1 = 0
  | .vtopk d _ _ _ _ => d &&& 1 = 0
  | .wlpop d a => d &&& 1 = 0 && d ≠ 0 && a ≠ d && a ≠ d + 1
  | .recvv d _ => d ≠ 0
  | .utfb d a _ => d ≠ a && a ≠ 0
  | .trie d a _ _ => d ≠ a && a ≠ 0
  | .vbfly d a _ _ => d ≠ a
  | _ => true

/-- The element types that an entry allows (R111, R135 check 4, R214, R217, R222, R229, R384, R385, R389). -/
def Instr.typesOk : Instr → Bool
  | .vadd _ _ _ _ e _ | .vsub _ _ _ _ e _ | .vmul _ _ _ _ e _ | .vfma _ _ _ _ e _ => e ≤ 11
  | .vmin _ _ _ _ e | .vmax _ _ _ _ e | .vand _ _ _ _ e | .vor _ _ _ _ e | .vxor _ _ _ _ e => e ≤ 11
  | .vshl _ _ _ _ e | .vshr _ _ _ _ e => e ≤ 4
  | .vcmp _ _ _ _ _ e => e ≤ 11
  | .vsel _ _ _ e => e ≤ 11
  | .vred _ _ _ _ e _ => e ≤ 11
  | .vperm _ _ _ _ e => e ≤ 11
  | .vbcast _ _ _ e => e ≤ 11
  | .vmovs _ _ _ e => e ≤ 11
  | .viota _ _ _ e => e ≤ 4
  | .vcvt _ _ s _ e _ => s ≤ 11 && e ≤ 11
  | .vqnt _ _ _ _ f => f ≤ 11
  | .vdqnt _ _ _ _ f _ => f ≤ 11
  | .vbound _ _ _ _ e _ => 5 ≤ e && e ≤ 7
  | .vtopk _ _ _ _ e => 5 ≤ e && e ≤ 7
  | .vrng _ _ _ _ e => e = 3 || e = 7
  | .vgmask _ _ _ e => 5 ≤ e && e ≤ 7
  | _ => true

/-- The IEEE types f16, bf16, f32 and f64, whose arithmetic rounds in the mode rm (R112, R384). -/
def ieeeType (e : Reg) : Bool := 5 ≤ e && e ≤ 8

/-- The pairs of VCVT that can round (R388): a float or log source into an integer type, and an IEEE destination in
which some value of the source is not exact. -/
def cvtRounds (s e : Reg) : Bool :=
  (5 ≤ s && e ≤ 4) ||
  (s = 2 && (e = 5 || e = 6)) ||
  ((s = 3 || s = 4) && (e = 5 || e = 6 || e = 7)) ||
  (s = 4 && e = 8) ||
  (s = 8 && (e = 7 || e = 5 || e = 6)) ||
  (s = 7 && (e = 5 || e = 6)) ||
  (s = 5 && e = 6) || (s = 6 && e = 5) ||
  (s = 11 && (e = 5 || e = 6))

/-- rm is 0b00 wherever no result can round in a mode (R112, R135 check 5, R384, R388, R394). -/
def Instr.roundingOk : Instr → Bool
  | .vadd _ _ _ _ e r | .vsub _ _ _ _ e r | .vmul _ _ _ _ e r | .vfma _ _ _ _ e r => r = 0 || ieeeType e
  | .vred _ _ o _ e r => r = 0 || (o = 0 && ieeeType e)
  | .vcvt _ _ s _ e r => r = 0 || cvtRounds s e
  | _ => true

/-- The word of a well-formed instruction passes the decoder. -/
def Instr.wellFormed (i : Instr) : Bool :=
  i.isWord && i.selectorOk && i.registersOk && i.typesOk && i.roundingOk

end Sys2Proof
end

