-- ==== Sys2Proof/Decode.lean ====
section
/-! DEFINITION. The decoder of 08_encoding.md: formats R129 and R130, the opcode map R133, the reserved encodings R134
and the checks of R135 in their order; and after it the encoder, written from the same formats. A word that names no
instruction is refused by the name of the first check that fails; the machine takes the illegal-instruction trap. -/
namespace Sys2Proof

/-- The check of R135 that refused a word. -/
inductive DecodeError where
  /-- The major opcode is not assigned (check 1). -/
  | majorUnassigned
  /-- The selector value is not listed (check 1). -/
  | selectorUnlisted
  /-- A must-be-zero field is not zero (check 2). -/
  | mustBeZero
  /-- A register field is out of range (check 3). -/
  | registerRange
  /-- The element type is not one that the entry allows (check 4). -/
  | typeNotAllowed
  /-- rm is not zero where no result rounds in a mode (check 5). -/
  | roundingNotAllowed
  deriving DecidableEq, Repr

namespace Decode

/-- The `n` bits of `w` from bit `lo` up. -/
def fld (w : Half) (lo n : Nat) : BitVec n := w.extractLsb' lo n

/-- Every listed range `(hi, lo)` of `w` is zero. -/
def allZero (w : Half) : List (Nat × Nat) → Bool
  | [] => true
  | (hi, lo) :: rest => w.extractLsb' lo (hi + 1 - lo) == 0 && allZero w rest

/-- Check 2: the instruction, unless a must-be-zero field is not zero. -/
def word (w : Half) (zs : List (Nat × Nat)) (i : Instr) : Except DecodeError Instr :=
  if allZero w zs then .ok i else .error .mustBeZero

/-- The instruction requires rm = 0b00 (R112, R385, R387, R390). -/
def rm0 (w : Half) (r : Except DecodeError Instr) : Except DecodeError Instr :=
  match r with
  | .error e => .error e
  | .ok i => if fld w 0 2 == 0 then .ok i else .error .roundingNotAllowed

/-- The instruction requires et = 7 (R122, R123, R124, R223). -/
def et7 (w : Half) (r : Except DecodeError Instr) : Except DecodeError Instr :=
  match r with
  | .error .mustBeZero => .error .mustBeZero
  | .error e => if fld w 2 4 == 7 then .error e else .error .typeNotAllowed
  | .ok i => if fld w 2 4 == 7 then .ok i else .error .typeNotAllowed

def major01 (w : Half) : Except DecodeError Instr :=
  match (fld w 4 6).toNat with
  | 0 => word w [(13, 10), (3, 0)] (.add (fld w 22 4) (fld w 18 4) (fld w 14 4))
  | 1 => word w [(13, 10), (3, 0)] (.sub (fld w 22 4) (fld w 18 4) (fld w 14 4))
  | 2 => word w [(13, 10), (3, 0)] (.and (fld w 22 4) (fld w 18 4) (fld w 14 4))
  | 3 => word w [(13, 10), (3, 0)] (.or (fld w 22 4) (fld w 18 4) (fld w 14 4))
  | 4 => word w [(13, 10), (3, 0)] (.xor (fld w 22 4) (fld w 18 4) (fld w 14 4))
  | 5 => word w [(13, 10), (3, 0)] (.shl (fld w 22 4) (fld w 18 4) (fld w 14 4))
  | 6 => word w [(13, 10), (3, 0)] (.shr (fld w 22 4) (fld w 18 4) (fld w 14 4))
  | 7 => word w [(13, 10), (3, 0)] (.sra (fld w 22 4) (fld w 18 4) (fld w 14 4))
  | 8 => word w [(13, 10), (3, 0)] (.slt (fld w 22 4) (fld w 18 4) (fld w 14 4))
  | 9 => word w [(13, 10), (3, 0)] (.sltu (fld w 22 4) (fld w 18 4) (fld w 14 4))
  | 10 => word w [(13, 10), (3, 0)] (.min (fld w 22 4) (fld w 18 4) (fld w 14 4))
  | 11 => word w [(13, 10), (3, 0)] (.max (fld w 22 4) (fld w 18 4) (fld w 14 4))
  | 12 => word w [(17, 14), (13, 10), (3, 0)] (.clz (fld w 22 4) (fld w 18 4))
  | 13 => word w [(17, 14), (13, 10), (3, 0)] (.ctz (fld w 22 4) (fld w 18 4))
  | 14 => word w [(17, 14), (13, 10), (3, 0)] (.popc (fld w 22 4) (fld w 18 4))
  | 15 => word w [(3, 0)] (.sel (fld w 22 4) (fld w 18 4) (fld w 14 4) (fld w 10 4))
  | _ => .error .selectorUnlisted

def major02 (w : Half) : Except DecodeError Instr :=
  word w [] (.addi (fld w 22 4) (fld w 18 4) (fld w 0 18))

def major03 (w : Half) : Except DecodeError Instr :=
  word w [] (.andi (fld w 22 4) (fld w 18 4) (fld w 0 18))

def major04 (w : Half) : Except DecodeError Instr :=
  word w [] (.ori (fld w 22 4) (fld w 18 4) (fld w 0 18))

def major05 (w : Half) : Except DecodeError Instr :=
  word w [] (.xori (fld w 22 4) (fld w 18 4) (fld w 0 18))

def major06 (w : Half) : Except DecodeError Instr :=
  word w [] (.slti (fld w 22 4) (fld w 18 4) (fld w 0 18))

def major07 (w : Half) : Except DecodeError Instr :=
  match (fld w 16 2).toNat with
  | 0 => word w [(15, 6)] (.shli (fld w 22 4) (fld w 18 4) (fld w 0 6))
  | 1 => word w [(15, 6)] (.shri (fld w 22 4) (fld w 18 4) (fld w 0 6))
  | 2 => word w [(15, 6)] (.srai (fld w 22 4) (fld w 18 4) (fld w 0 6))
  | _ => .error .selectorUnlisted

def major08 (w : Half) : Except DecodeError Instr :=
  word w [] (.lui (fld w 22 4) (fld w 0 22))

def major09 (w : Half) : Except DecodeError Instr :=
  word w [] (.luih (fld w 22 4) (fld w 0 22))

def major0A (w : Half) : Except DecodeError Instr :=
  word w [] (.addpc (fld w 22 4) (fld w 0 22))

def major0B (w : Half) : Except DecodeError Instr :=
  match (fld w 4 6).toNat with
  | 0 => word w [(13, 10)] (.mul (fld w 22 4) (fld w 18 4) (fld w 14 4) (fld w 0 4))
  | 1 => word w [(13, 10)] (.div (fld w 22 4) (fld w 18 4) (fld w 14 4) (fld w 0 4))
  | 2 => word w [(13, 10)] (.divu (fld w 22 4) (fld w 18 4) (fld w 14 4) (fld w 0 4))
  | 3 => word w [(13, 10)] (.rem (fld w 22 4) (fld w 18 4) (fld w 14 4) (fld w 0 4))
  | 4 => word w [(13, 10)] (.remu (fld w 22 4) (fld w 18 4) (fld w 14 4) (fld w 0 4))
  | _ => .error .selectorUnlisted

def major0C (w : Half) : Except DecodeError Instr :=
  match (fld w 15 3).toNat with
  | 0 => word w [] (.beq (fld w 22 4) (fld w 18 4) (fld w 0 15))
  | 1 => word w [] (.bne (fld w 22 4) (fld w 18 4) (fld w 0 15))
  | 2 => word w [] (.blt (fld w 22 4) (fld w 18 4) (fld w 0 15))
  | 3 => word w [] (.bge (fld w 22 4) (fld w 18 4) (fld w 0 15))
  | 4 => word w [] (.bltu (fld w 22 4) (fld w 18 4) (fld w 0 15))
  | 5 => word w [] (.bgeu (fld w 22 4) (fld w 18 4) (fld w 0 15))
  | 6 => word w [] (.bany (fld w 22 4) (fld w 18 4) (fld w 0 15))
  | 7 => word w [] (.bnone (fld w 22 4) (fld w 18 4) (fld w 0 15))
  | _ => .error .selectorUnlisted

def major0D (w : Half) : Except DecodeError Instr :=
  word w [] (.jal (fld w 22 4) (fld w 0 22))

def major0E (w : Half) : Except DecodeError Instr :=
  word w [] (.jalr (fld w 22 4) (fld w 18 4) (fld w 0 18))

def major0F (w : Half) : Except DecodeError Instr :=
  word w [(1, 0)] (.rpt (fld w 18 8) (fld w 14 4) (fld w 10 4) (fld w 6 4) (fld w 2 4))

def major10 (w : Half) : Except DecodeError Instr :=
  match (fld w 15 1).toNat with
  | 0 => word w [] (.ld (fld w 22 4) (fld w 18 4) (fld w 16 2) (fld w 14 1) (fld w 4 10) (fld w 0 4))
  | 1 => word w [] (.lds (fld w 22 4) (fld w 18 4) (fld w 16 2) (fld w 14 1) (fld w 4 10) (fld w 0 4))
  | _ => .error .selectorUnlisted

def major11 (w : Half) : Except DecodeError Instr :=
  word w [(15, 15), (3, 0)] (.st (fld w 22 4) (fld w 18 4) (fld w 16 2) (fld w 14 1) (fld w 4 10))

def major12 (w : Half) : Except DecodeError Instr :=
  match (fld w 14 4).toNat with
  | 0 => word w [] (.ldf (fld w 22 4) (fld w 18 4) (fld w 4 10) (fld w 0 4))
  | 1 => word w [] (.ldfe (fld w 22 4) (fld w 18 4) (fld w 4 10) (fld w 0 4))
  | 2 => word w [(3, 0)] (.stf (fld w 22 4) (fld w 18 4) (fld w 4 10))
  | 3 => word w [(3, 0)] (.stef (fld w 22 4) (fld w 18 4) (fld w 4 10))
  | 4 => word w [] (.fetest (fld w 22 4) (fld w 18 4) (fld w 4 10) (fld w 0 4))
  | 5 => word w [(3, 0)] (.feset (fld w 22 4) (fld w 18 4) (fld w 4 10))
  | _ => .error .selectorUnlisted

def major13 (w : Half) : Except DecodeError Instr :=
  match (fld w 14 4).toNat with
  | 0 => word w [] (.hold (fld w 22 4) (fld w 18 4) (fld w 4 10) (fld w 0 4))
  | 1 => word w [(3, 0)] (.release (fld w 22 4) (fld w 18 4) (fld w 4 10))
  | _ => .error .selectorUnlisted

def major14 (w : Half) : Except DecodeError Instr :=
  word w [(3, 0)] (.far (fld w 22 4) (fld w 18 4) (fld w 14 4) (fld w 4 10))

def major15 (w : Half) : Except DecodeError Instr :=
  match (fld w 22 4).toNat with
  | 0 => word w [(21, 0)] (.fenceGroup)
  | 1 => word w [(21, 0)] (.fenceDevice)
  | 2 => word w [(21, 0)] (.fenceSystem)
  | 3 => word w [(21, 0)] (.fenceI)
  | _ => .error .selectorUnlisted

def major16 (w : Half) : Except DecodeError Instr :=
  word w [(17, 0)] (.mig (fld w 22 4) (fld w 18 4))

def major18 (w : Half) : Except DecodeError Instr :=
  match (fld w 4 6).toNat with
  | 0 => word w [(17, 14), (3, 0)] (.wfld (fld w 22 4) (fld w 18 4) (fld w 10 4))
  | 1 => word w [(21, 18), (17, 14), (13, 10), (3, 0)] (.wfw (fld w 22 4))
  | 2 => word w [(13, 10), (3, 0)] (.wlpush (fld w 22 4) (fld w 18 4) (fld w 14 4))
  | 3 => word w [(17, 14), (13, 10), (3, 0)] (.wlpop (fld w 22 4) (fld w 18 4))
  | 4 => word w [(17, 14), (13, 10)] (.launch (fld w 22 4) (fld w 18 4) (fld w 0 4))
  | 5 => word w [(21, 18), (17, 14), (3, 0)] (.gang (fld w 22 4) (fld w 10 4))
  | 6 => word w [(25, 22), (21, 18), (17, 14), (13, 10), (3, 0)] (.ungang)
  | 7 => word w [(25, 22), (21, 18), (17, 14), (13, 10), (3, 0)] (.yield)
  | _ => .error .selectorUnlisted

def major19 (w : Half) : Except DecodeError Instr :=
  match (fld w 0 6).toNat with
  | 0 => word w [(21, 18)] (.mfs (fld w 22 4) (fld w 6 12))
  | 1 => word w [(25, 22)] (.mts (fld w 18 4) (fld w 6 12))
  | _ => .error .selectorUnlisted

def major1A (w : Half) : Except DecodeError Instr :=
  match (fld w 4 6).toNat with
  | 0 => word w [(3, 0)] (.sendv (fld w 22 4) (fld w 18 4) (fld w 14 4) (fld w 10 4))
  | 1 => word w [(21, 18), (17, 14), (13, 10)] (.recvv (fld w 22 4) (fld w 0 4))
  | 2 => word w [(25, 22), (17, 14), (13, 10), (3, 0)] (.mdone (fld w 18 4))
  | 3 => word w [(25, 22), (17, 14), (13, 10), (3, 0)] (.roll (fld w 18 4))
  | 4 => word w [(13, 10), (3, 0)] (.defer (fld w 22 4) (fld w 18 4) (fld w 14 4))
  | _ => .error .selectorUnlisted

def major1B (w : Half) : Except DecodeError Instr :=
  match (fld w 4 6).toNat with
  | 0 => word w [(25, 22), (3, 0)] (.axbind (fld w 18 4) (fld w 14 4) (fld w 10 4))
  | 1 => word w [(17, 14), (13, 10), (3, 0)] (.fopen (fld w 22 4) (fld w 18 4))
  | 2 => word w [(17, 14), (13, 10), (3, 0)] (.fconf (fld w 22 4) (fld w 18 4))
  | 3 => word w [(17, 14), (13, 10), (3, 0)] (.funw (fld w 22 4) (fld w 18 4))
  | 4 => word w [(3, 0)] (.tokemit (fld w 22 4) (fld w 18 4) (fld w 14 4) (fld w 10 4))
  | 5 => word w [(3, 0)] (.abop (fld w 22 4) (fld w 18 4) (fld w 14 4) (fld w 10 4))
  | 6 => word w [(25, 22), (17, 14), (13, 10), (3, 0)] (.tbegin (fld w 18 4))
  | 7 => word w [(25, 22), (21, 18), (17, 14), (13, 10), (3, 0)] (.tend)
  | _ => .error .selectorUnlisted

def major20 (w : Half) : Except DecodeError Instr :=
  match (fld w 8 6).toNat with
  | 0 => word w [] (.vadd (fld w 22 4) (fld w 18 4) (fld w 14 4) (fld w 6 2) (fld w 2 4) (fld w 0 2))
  | 1 => word w [] (.vsub (fld w 22 4) (fld w 18 4) (fld w 14 4) (fld w 6 2) (fld w 2 4) (fld w 0 2))
  | 2 => word w [] (.vmul (fld w 22 4) (fld w 18 4) (fld w 14 4) (fld w 6 2) (fld w 2 4) (fld w 0 2))
  | 3 => word w [] (.vfma (fld w 22 4) (fld w 18 4) (fld w 14 4) (fld w 6 2) (fld w 2 4) (fld w 0 2))
  | 4 => rm0 w (word w [] (.vmin (fld w 22 4) (fld w 18 4) (fld w 14 4) (fld w 6 2) (fld w 2 4)))
  | 5 => rm0 w (word w [] (.vmax (fld w 22 4) (fld w 18 4) (fld w 14 4) (fld w 6 2) (fld w 2 4)))
  | 6 => rm0 w (word w [] (.vand (fld w 22 4) (fld w 18 4) (fld w 14 4) (fld w 6 2) (fld w 2 4)))
  | 7 => rm0 w (word w [] (.vor (fld w 22 4) (fld w 18 4) (fld w 14 4) (fld w 6 2) (fld w 2 4)))
  | 8 => rm0 w (word w [] (.vxor (fld w 22 4) (fld w 18 4) (fld w 14 4) (fld w 6 2) (fld w 2 4)))
  | 9 => rm0 w (word w [] (.vshl (fld w 22 4) (fld w 18 4) (fld w 14 4) (fld w 6 2) (fld w 2 4)))
  | 10 => rm0 w (word w [] (.vshr (fld w 22 4) (fld w 18 4) (fld w 14 4) (fld w 6 2) (fld w 2 4)))
  | _ => .error .selectorUnlisted

def major21 (w : Half) : Except DecodeError Instr :=
  match (fld w 8 6).toNat with
  | 0 => rm0 w (word w [] (.vcmp (fld w 22 4) (fld w 18 4) (fld w 14 4) 0#3 (fld w 6 2) (fld w 2 4)))
  | 1 => rm0 w (word w [] (.vcmp (fld w 22 4) (fld w 18 4) (fld w 14 4) 1#3 (fld w 6 2) (fld w 2 4)))
  | 2 => rm0 w (word w [] (.vcmp (fld w 22 4) (fld w 18 4) (fld w 14 4) 2#3 (fld w 6 2) (fld w 2 4)))
  | 3 => rm0 w (word w [] (.vcmp (fld w 22 4) (fld w 18 4) (fld w 14 4) 3#3 (fld w 6 2) (fld w 2 4)))
  | 4 => rm0 w (word w [] (.vcmp (fld w 22 4) (fld w 18 4) (fld w 14 4) 4#3 (fld w 6 2) (fld w 2 4)))
  | 5 => rm0 w (word w [] (.vcmp (fld w 22 4) (fld w 18 4) (fld w 14 4) 5#3 (fld w 6 2) (fld w 2 4)))
  | 8 => rm0 w (word w [(17, 14)] (.vsel (fld w 22 4) (fld w 18 4) (fld w 6 2) (fld w 2 4)))
  | 9 => word w [(7, 6), (5, 2), (1, 0)] (.mand (fld w 22 4) (fld w 18 4) (fld w 14 4))
  | 10 => word w [(7, 6), (5, 2), (1, 0)] (.mor (fld w 22 4) (fld w 18 4) (fld w 14 4))
  | 11 => word w [(17, 14), (7, 6), (5, 2), (1, 0)] (.mnot (fld w 22 4) (fld w 18 4))
  | 12 => word w [(7, 6), (5, 2), (1, 0)] (.mfirst (fld w 22 4) (fld w 18 4) (fld w 14 4))
  | _ => .error .selectorUnlisted

def major22 (w : Half) : Except DecodeError Instr :=
  match (fld w 8 6).toNat with
  | 0 => word w [] (.vred (fld w 22 4) (fld w 18 4) (fld w 14 4) (fld w 6 2) (fld w 2 4) (fld w 0 2))
  | 1 => rm0 w (word w [] (.vperm (fld w 22 4) (fld w 18 4) (fld w 14 4) (fld w 6 2) (fld w 2 4)))
  | 2 => rm0 w (word w [(17, 14)] (.vbcast (fld w 22 4) (fld w 18 4) (fld w 6 2) (fld w 2 4)))
  | 3 => rm0 w (word w [(7, 6)] (.vmovs (fld w 22 4) (fld w 18 4) (fld w 14 4) (fld w 2 4)))
  | 4 => rm0 w (word w [(17, 14)] (.viota (fld w 22 4) (fld w 18 4) (fld w 6 2) (fld w 2 4)))
  | _ => .error .selectorUnlisted

def major23 (w : Half) : Except DecodeError Instr :=
  match (fld w 8 6).toNat with
  | 0 => et7 w (word w [(17, 14)] (.vexp2 (fld w 22 4) (fld w 18 4) (fld w 6 2) (fld w 0 2)))
  | 1 => et7 w (word w [(17, 14)] (.vlog2 (fld w 22 4) (fld w 18 4) (fld w 6 2) (fld w 0 2)))
  | 2 => et7 w (word w [(17, 14)] (.vrcp (fld w 22 4) (fld w 18 4) (fld w 6 2) (fld w 0 2)))
  | 3 => et7 w (word w [(17, 14)] (.vrsq (fld w 22 4) (fld w 18 4) (fld w 6 2) (fld w 0 2)))
  | _ => .error .selectorUnlisted

def major24 (w : Half) : Except DecodeError Instr :=
  match (fld w 10 4).toNat with
  | 0 => word w [(17, 14)] (.vld (fld w 22 4) (fld w 18 4) (fld w 4 6) (fld w 0 4))
  | 1 => word w [(17, 14), (3, 0)] (.vst (fld w 22 4) (fld w 18 4) (fld w 4 6))
  | 2 => word w [] (.vlds (fld w 22 4) (fld w 18 4) (fld w 14 4) (fld w 4 6) (fld w 0 4))
  | 3 => word w [] (.vgat (fld w 22 4) (fld w 18 4) (fld w 14 4) (fld w 4 6) (fld w 0 4))
  | _ => .error .selectorUnlisted

def major25 (w : Half) : Except DecodeError Instr :=
  match (fld w 8 6).toNat with
  | 0 => word w [] (.vcvt (fld w 22 4) (fld w 18 4) (fld w 14 4) (fld w 6 2) (fld w 2 4) (fld w 0 2))
  | 1 => rm0 w (word w [] (.vqnt (fld w 22 4) (fld w 18 4) (fld w 14 4) (fld w 6 2) (fld w 2 4)))
  | 2 => word w [] (.vdqnt (fld w 22 4) (fld w 18 4) (fld w 14 4) (fld w 6 2) (fld w 2 4) (fld w 0 2))
  | _ => .error .selectorUnlisted

def major26 (w : Half) : Except DecodeError Instr :=
  match (fld w 8 6).toNat with
  | 0 => et7 w (rm0 w (word w [] (.vbfly (fld w 22 4) (fld w 18 4) (fld w 14 4) (fld w 6 2))))
  | 1 => et7 w (rm0 w (word w [] (.vtwid (fld w 22 4) (fld w 18 4) (fld w 14 4) (fld w 6 2))))
  | _ => .error .selectorUnlisted

def major27 (w : Half) : Except DecodeError Instr :=
  match (fld w 8 6).toNat with
  | 0 => word w [] (.vbound (fld w 22 4) (fld w 18 4) (fld w 14 4) (fld w 6 2) (fld w 2 4) (fld w 0 2))
  | 1 => rm0 w (word w [] (.vtopk (fld w 22 4) (fld w 18 4) (fld w 14 4) (fld w 6 2) (fld w 2 4)))
  | 2 => et7 w (rm0 w (word w [(17, 14)] (.vgumb (fld w 22 4) (fld w 18 4) (fld w 6 2))))
  | 3 => rm0 w (word w [] (.vrng (fld w 22 4) (fld w 18 4) (fld w 14 4) (fld w 6 2) (fld w 2 4)))
  | 4 => rm0 w (word w [(17, 14)] (.vgmask (fld w 22 4) (fld w 18 4) (fld w 6 2) (fld w 2 4)))
  | _ => .error .selectorUnlisted

def major28 (w : Half) : Except DecodeError Instr :=
  word w [(3, 0)] (.mma (fld w 24 2) (fld w 21 3) (fld w 18 3) (fld w 16 2) (fld w 14 2) (fld w 13 1) (fld w 5 8) (fld w 4 1))

def major29 (w : Half) : Except DecodeError Instr :=
  match (fld w 4 6).toNat with
  | 0 => word w [(17, 14), (13, 10), (3, 0)] (.mcfg (fld w 22 4) (fld w 18 4))
  | 1 => word w [(17, 14), (13, 10), (3, 0)] (.mring (fld w 22 4) (fld w 18 4))
  | 2 => word w [(17, 14), (3, 0)] (.rpush (fld w 22 4) (fld w 18 4) (fld w 10 4))
  | 3 => word w [(25, 22), (21, 18), (17, 14), (3, 0)] (.mzero (fld w 10 4))
  | 4 => word w [(25, 22), (3, 0)] (.mst (fld w 18 4) (fld w 14 4) (fld w 10 4))
  | 5 => word w [(25, 22), (17, 14), (13, 10), (3, 0)] (.mdup (fld w 18 4))
  | _ => .error .selectorUnlisted

def major2A (w : Half) : Except DecodeError Instr :=
  match (fld w 4 6).toNat with
  | 0 => word w [] (.cpy (fld w 22 4) (fld w 18 4) (fld w 14 4) (fld w 10 4) (fld w 0 4))
  | 1 => word w [(17, 14), (13, 10)] (.cpyw (fld w 22 4) (fld w 18 4) (fld w 0 4))
  | 2 => word w [(17, 14), (13, 10), (3, 0)] (.cpyres (fld w 22 4) (fld w 18 4))
  | 3 => word w [(17, 14), (13, 10)] (.gath (fld w 22 4) (fld w 18 4) (fld w 0 4))
  | 4 => word w [(17, 14), (13, 10)] (.coll (fld w 22 4) (fld w 18 4) (fld w 0 4))
  | 5 => word w [(17, 14), (13, 10)] (.bar (fld w 22 4) (fld w 18 4) (fld w 0 4))
  | 6 => word w [(21, 18), (17, 14), (13, 10)] (.quies (fld w 22 4) (fld w 0 4))
  | _ => .error .selectorUnlisted

def major2B (w : Half) : Except DecodeError Instr :=
  match (fld w 4 6).toNat with
  | 0 => word w [(13, 10)] (.bhash (fld w 22 4) (fld w 18 4) (fld w 14 4) (fld w 0 4))
  | 1 => word w [(13, 10)] (.pfxlook (fld w 22 4) (fld w 18 4) (fld w 14 4) (fld w 0 4))
  | 2 => word w [(13, 10)] (.pfxins (fld w 22 4) (fld w 18 4) (fld w 14 4) (fld w 0 4))
  | 3 => word w [] (.pfxpin (fld w 22 4) (fld w 18 4) (fld w 14 4) (fld w 10 4) (fld w 0 4))
  | 4 => word w [(13, 10)] (.pfxunpin (fld w 22 4) (fld w 18 4) (fld w 14 4) (fld w 0 4))
  | 5 => word w [(13, 10)] (.ancm (fld w 22 4) (fld w 18 4) (fld w 14 4) (fld w 0 4))
  | 6 => word w [] (.kvapp (fld w 22 4) (fld w 18 4) (fld w 14 4) (fld w 10 4) (fld w 0 4))
  | _ => .error .selectorUnlisted

def major2C (w : Half) : Except DecodeError Instr :=
  match (fld w 4 6).toNat with
  | 0 => word w [(13, 10), (3, 0)] (.utfb (fld w 22 4) (fld w 18 4) (fld w 14 4))
  | 1 => word w [(3, 0)] (.trie (fld w 22 4) (fld w 18 4) (fld w 14 4) (fld w 10 4))
  | _ => .error .selectorUnlisted

def major3E (w : Half) : Except DecodeError Instr :=
  match (fld w 0 6).toNat with
  | 0 => word w [(25, 22), (21, 18)] (.ecall (fld w 6 12))
  | 1 => word w [(25, 22), (21, 18)] (.ebrk (fld w 6 12))
  | 2 => word w [(25, 22), (21, 18), (17, 6)] (.tret)
  | 4 => word w [(25, 22), (21, 18), (17, 6)] (.waiti)
  | 5 => word w [(25, 22), (21, 18), (17, 6)] (.halt)
  | _ => .error .selectorUnlisted

/-- The instruction that the major and its selector name, its must-be-zero fields checked (R133). -/
def raw (w : Half) : Except DecodeError Instr :=
  match (fld w 26 6).toNat with
  | 1 => major01 w
  | 2 => major02 w
  | 3 => major03 w
  | 4 => major04 w
  | 5 => major05 w
  | 6 => major06 w
  | 7 => major07 w
  | 8 => major08 w
  | 9 => major09 w
  | 10 => major0A w
  | 11 => major0B w
  | 12 => major0C w
  | 13 => major0D w
  | 14 => major0E w
  | 15 => major0F w
  | 16 => major10 w
  | 17 => major11 w
  | 18 => major12 w
  | 19 => major13 w
  | 20 => major14 w
  | 21 => major15 w
  | 22 => major16 w
  | 24 => major18 w
  | 25 => major19 w
  | 26 => major1A w
  | 27 => major1B w
  | 32 => major20 w
  | 33 => major21 w
  | 34 => major22 w
  | 35 => major23 w
  | 36 => major24 w
  | 37 => major25 w
  | 38 => major26 w
  | 39 => major27 w
  | 40 => major28 w
  | 41 => major29 w
  | 42 => major2A w
  | 43 => major2B w
  | 44 => major2C w
  | 62 => major3E w
  | _ => .error .majorUnassigned

/-- Checks 3 to 5 of R135 on the fields. -/
def checked (i : Instr) : Except DecodeError Instr :=
  if !i.selectorOk then .error .selectorUnlisted
  else if !i.registersOk then .error .registerRange
  else if !i.typesOk then .error .typeNotAllowed
  else if !i.roundingOk then .error .roundingNotAllowed
  else .ok i

end Decode

/-- The instruction of a word, or the check that refuses it (R135). Total on every word. -/
def decode (w : Half) : Except DecodeError Instr :=
  match Decode.raw w with
  | .error e => .error e
  | .ok i => Decode.checked i

/-- The word that four bytes hold, little-endian (R126). -/
def wordOfBytes (b0 b1 b2 b3 : Byte) : Half := b3 ++ b2 ++ b1 ++ b0

/-- The instruction at the head of a list of bytes and the bytes after it; a word that is refused, or cut short,
gives none. -/
def decodeBytes : List Byte → Option (Instr × List Byte)
  | b0 :: b1 :: b2 :: b3 :: rest =>
    match decode (wordOfBytes b0 b1 b2 b3) with
    | .ok i => some (i, rest)
    | .error _ => none
  | _ => none

/-- The four bytes in which a number's low 32 bits are stored, the first at the lowest address (R126). -/
def bytesOfWord (w : Half) : List Byte :=
  [w.extractLsb' 0 8, w.extractLsb' 8 8, w.extractLsb' 16 8, w.extractLsb' 24 8]

/-- The host's question: the instruction that the decoder reads from a word of the table. Every instruction is one
32-bit word, so a word of any other length names none. -/
def decodeTableWord (nbits w : Nat) : Option Instr :=
  if nbits = 32 then (decodeBytes (bytesOfWord (BitVec.ofNat 32 w))).map (·.1) else none

/-- Format R: op 31:26, d 25:22, a 21:18, b 17:14, c 13:10, fn 9:4, la 3:0 (R129). -/
def fmtR (op : BitVec 6) (d : BitVec 4) (a : BitVec 4) (b : BitVec 4) (c : BitVec 4) (fn : BitVec 6) (la : BitVec 4) : Half :=
  op ++ d ++ a ++ b ++ c ++ fn ++ la

/-- Format I: op 31:26, d 25:22, a 21:18, imm 17:0 (R129). -/
def fmtI (op : BitVec 6) (d : BitVec 4) (a : BitVec 4) (imm : BitVec 18) : Half :=
  op ++ d ++ a ++ imm

/-- Format U (and J): op 31:26, d 25:22, imm 21:0 (R129). -/
def fmtU (op : BitVec 6) (d : BitVec 4) (imm : BitVec 22) : Half :=
  op ++ d ++ imm

/-- Format B: op 31:26, a 25:22, b 21:18, cond 17:15, off 14:0 (R129). -/
def fmtB (op : BitVec 6) (a : BitVec 4) (b : BitVec 4) (cond : BitVec 3) (off : BitVec 15) : Half :=
  op ++ a ++ b ++ cond ++ off

/-- Format M: op 31:26, d 25:22, a 21:18, sz 17:16, sx 15:15, rx 14:14, imm 13:4, la 3:0 (R129). -/
def fmtM (op : BitVec 6) (d : BitVec 4) (a : BitVec 4) (sz : BitVec 2) (sx : BitVec 1) (rx : BitVec 1) (imm : BitVec 10) (la : BitVec 4) : Half :=
  op ++ d ++ a ++ sz ++ sx ++ rx ++ imm ++ la

/-- Format V: op 31:26, d 25:22, a 21:18, b 17:14, vfn 13:8, mk 7:6, et 5:2, rm 1:0 (R129). -/
def fmtV (op : BitVec 6) (d : BitVec 4) (a : BitVec 4) (b : BitVec 4) (vfn : BitVec 6) (mk : BitVec 2) (et : BitVec 4) (rm : BitVec 2) : Half :=
  op ++ d ++ a ++ b ++ vfn ++ mk ++ et ++ rm

/-- Format VM: op 31:26, d 25:22, a 21:18, b 17:14, fn 13:10, imm 9:4, la 3:0 (R129). -/
def fmtVM (op : BitVec 6) (d : BitVec 4) (a : BitVec 4) (b : BitVec 4) (fn : BitVec 4) (imm : BitVec 6) (la : BitVec 4) : Half :=
  op ++ d ++ a ++ b ++ fn ++ imm ++ la

/-- Format X: op 31:26, acc 25:24, ringa 23:21, ringb 20:18, bka 17:16, bkb 15:14, z 13:13, kcnt 12:5, dup 4:4, zero 3:0 (R129). -/
def fmtX (op : BitVec 6) (acc : BitVec 2) (ringa : BitVec 3) (ringb : BitVec 3) (bka : BitVec 2) (bkb : BitVec 2) (z : BitVec 1) (kcnt : BitVec 8) (dup : BitVec 1) (zero : BitVec 4) : Half :=
  op ++ acc ++ ringa ++ ringb ++ bka ++ bkb ++ z ++ kcnt ++ dup ++ zero

/-- Format S: op 31:26, d 25:22, a 21:18, csr 17:6, fn 5:0 (R129). -/
def fmtS (op : BitVec 6) (d : BitVec 4) (a : BitVec 4) (csr : BitVec 12) (fn : BitVec 6) : Half :=
  op ++ d ++ a ++ csr ++ fn

/-- Format P: op 31:26, cnt 25:18, len 17:14, sd 13:10, sa 9:6, sb 5:2, zero 1:0 (R129). -/
def fmtP (op : BitVec 6) (cnt : BitVec 8) (len : BitVec 4) (sd : BitVec 4) (sa : BitVec 4) (sb : BitVec 4) (zero : BitVec 2) : Half :=
  op ++ cnt ++ len ++ sd ++ sa ++ sb ++ zero

/-- Format M with function (R130): op 31:26, d 25:22, a 21:18, fn 17:14, imm 13:4, la 3:0 (R129). -/
def fmtF (op : BitVec 6) (d : BitVec 4) (a : BitVec 4) (fn : BitVec 4) (imm : BitVec 10) (la : BitVec 4) : Half :=
  op ++ d ++ a ++ fn ++ imm ++ la

/-- Format I with shift selector (R130): op 31:26, d 25:22, a 21:18, kind 17:16, zero 15:6, amount 5:0 (R129). -/
def fmtSh (op : BitVec 6) (d : BitVec 4) (a : BitVec 4) (kind : BitVec 2) (zero : BitVec 10) (amount : BitVec 6) : Half :=
  op ++ d ++ a ++ kind ++ zero ++ amount

/-- Format Fence (R130): op 31:26, scope 25:22, zero 21:0 (R129). -/
def fmtFe (op : BitVec 6) (scope : BitVec 4) (zero : BitVec 22) : Half :=
  op ++ scope ++ zero

/-- The word of an instruction, its fields placed as R129 to R131 place them. An event has no word; it gives 0, which
R134 refuses. -/
def encode : Instr → Half
  | .add d a b => fmtR 1#6 d a b 0#4 0#6 0#4
  | .sub d a b => fmtR 1#6 d a b 0#4 1#6 0#4
  | .and d a b => fmtR 1#6 d a b 0#4 2#6 0#4
  | .or d a b => fmtR 1#6 d a b 0#4 3#6 0#4
  | .xor d a b => fmtR 1#6 d a b 0#4 4#6 0#4
  | .shl d a b => fmtR 1#6 d a b 0#4 5#6 0#4
  | .shr d a b => fmtR 1#6 d a b 0#4 6#6 0#4
  | .sra d a b => fmtR 1#6 d a b 0#4 7#6 0#4
  | .slt d a b => fmtR 1#6 d a b 0#4 8#6 0#4
  | .sltu d a b => fmtR 1#6 d a b 0#4 9#6 0#4
  | .min d a b => fmtR 1#6 d a b 0#4 10#6 0#4
  | .max d a b => fmtR 1#6 d a b 0#4 11#6 0#4
  | .clz d a => fmtR 1#6 d a 0#4 0#4 12#6 0#4
  | .ctz d a => fmtR 1#6 d a 0#4 0#4 13#6 0#4
  | .popc d a => fmtR 1#6 d a 0#4 0#4 14#6 0#4
  | .sel d a b c => fmtR 1#6 d a b c 15#6 0#4
  | .addi d a i => fmtI 2#6 d a i
  | .andi d a i => fmtI 3#6 d a i
  | .ori d a i => fmtI 4#6 d a i
  | .xori d a i => fmtI 5#6 d a i
  | .slti d a i => fmtI 6#6 d a i
  | .shli d a s => fmtSh 7#6 d a 0#2 0#10 s
  | .shri d a s => fmtSh 7#6 d a 1#2 0#10 s
  | .srai d a s => fmtSh 7#6 d a 2#2 0#10 s
  | .lui d i => fmtU 8#6 d i
  | .luih d i => fmtU 9#6 d i
  | .addpc d i => fmtU 10#6 d i
  | .mul d a b l => fmtR 11#6 d a b 0#4 0#6 l
  | .div d a b l => fmtR 11#6 d a b 0#4 1#6 l
  | .divu d a b l => fmtR 11#6 d a b 0#4 2#6 l
  | .rem d a b l => fmtR 11#6 d a b 0#4 3#6 l
  | .remu d a b l => fmtR 11#6 d a b 0#4 4#6 l
  | .beq a b o => fmtB 12#6 a b 0#3 o
  | .bne a b o => fmtB 12#6 a b 1#3 o
  | .blt a b o => fmtB 12#6 a b 2#3 o
  | .bge a b o => fmtB 12#6 a b 3#3 o
  | .bltu a b o => fmtB 12#6 a b 4#3 o
  | .bgeu a b o => fmtB 12#6 a b 5#3 o
  | .bany a b o => fmtB 12#6 a b 6#3 o
  | .bnone a b o => fmtB 12#6 a b 7#3 o
  | .jal d o => fmtU 13#6 d o
  | .jalr d a i => fmtI 14#6 d a i
  | .rpt n l d a b => fmtP 15#6 n l d a b 0#2
  | .ld d a s x i l => fmtM 16#6 d a s 0#1 x i l
  | .lds d a s x i l => fmtM 16#6 d a s 1#1 x i l
  | .st d a s x i => fmtM 17#6 d a s 0#1 x i 0#4
  | .ldf d a i l => fmtF 18#6 d a 0#4 i l
  | .ldfe d a i l => fmtF 18#6 d a 1#4 i l
  | .stf d a i => fmtF 18#6 d a 2#4 i 0#4
  | .stef d a i => fmtF 18#6 d a 3#4 i 0#4
  | .fetest d a i l => fmtF 18#6 d a 4#4 i l
  | .feset d a i => fmtF 18#6 d a 5#4 i 0#4
  | .hold d a i l => fmtF 19#6 d a 0#4 i l
  | .release d a i => fmtF 19#6 d a 1#4 i 0#4
  | .far d a o i => fmtF 20#6 d a o i 0#4
  | .fenceGroup => fmtFe 21#6 0#4 0#22
  | .fenceDevice => fmtFe 21#6 1#4 0#22
  | .fenceSystem => fmtFe 21#6 2#4 0#22
  | .fenceI => fmtFe 21#6 3#4 0#22
  | .mig d a => fmtI 22#6 d a 0#18
  | .wfld d a c => fmtR 24#6 d a 0#4 c 0#6 0#4
  | .wfw d => fmtR 24#6 d 0#4 0#4 0#4 1#6 0#4
  | .wlpush d a b => fmtR 24#6 d a b 0#4 2#6 0#4
  | .wlpop d a => fmtR 24#6 d a 0#4 0#4 3#6 0#4
  | .launch d a l => fmtR 24#6 d a 0#4 0#4 4#6 l
  | .gang d c => fmtR 24#6 d 0#4 0#4 c 5#6 0#4
  | .ungang => fmtR 24#6 0#4 0#4 0#4 0#4 6#6 0#4
  | .yield => fmtR 24#6 0#4 0#4 0#4 0#4 7#6 0#4
  | .mfs d c => fmtS 25#6 d 0#4 c 0#6
  | .mts a c => fmtS 25#6 0#4 a c 1#6
  | .sendv d a b c => fmtR 26#6 d a b c 0#6 0#4
  | .recvv d l => fmtR 26#6 d 0#4 0#4 0#4 1#6 l
  | .mdone a => fmtR 26#6 0#4 a 0#4 0#4 2#6 0#4
  | .roll a => fmtR 26#6 0#4 a 0#4 0#4 3#6 0#4
  | .defer d a b => fmtR 26#6 d a b 0#4 4#6 0#4
  | .axbind a b c => fmtR 27#6 0#4 a b c 0#6 0#4
  | .fopen d a => fmtR 27#6 d a 0#4 0#4 1#6 0#4
  | .fconf d a => fmtR 27#6 d a 0#4 0#4 2#6 0#4
  | .funw d a => fmtR 27#6 d a 0#4 0#4 3#6 0#4
  | .tokemit d a b c => fmtR 27#6 d a b c 4#6 0#4
  | .abop d a b c => fmtR 27#6 d a b c 5#6 0#4
  | .tbegin a => fmtR 27#6 0#4 a 0#4 0#4 6#6 0#4
  | .tend => fmtR 27#6 0#4 0#4 0#4 0#4 7#6 0#4
  | .vadd d a b m e r => fmtV 32#6 d a b 0#6 m e r
  | .vsub d a b m e r => fmtV 32#6 d a b 1#6 m e r
  | .vmul d a b m e r => fmtV 32#6 d a b 2#6 m e r
  | .vfma d a b m e r => fmtV 32#6 d a b 3#6 m e r
  | .vmin d a b m e => fmtV 32#6 d a b 4#6 m e 0#2
  | .vmax d a b m e => fmtV 32#6 d a b 5#6 m e 0#2
  | .vand d a b m e => fmtV 32#6 d a b 6#6 m e 0#2
  | .vor d a b m e => fmtV 32#6 d a b 7#6 m e 0#2
  | .vxor d a b m e => fmtV 32#6 d a b 8#6 m e 0#2
  | .vshl d a b m e => fmtV 32#6 d a b 9#6 m e 0#2
  | .vshr d a b m e => fmtV 32#6 d a b 10#6 m e 0#2
  | .vcmp d a b c m e => fmtV 33#6 d a b (0#3 ++ c) m e 0#2
  | .vsel d a m e => fmtV 33#6 d a 0#4 8#6 m e 0#2
  | .mand d a b => fmtV 33#6 d a b 9#6 0#2 0#4 0#2
  | .mor d a b => fmtV 33#6 d a b 10#6 0#2 0#4 0#2
  | .mnot d a => fmtV 33#6 d a 0#4 11#6 0#2 0#4 0#2
  | .mfirst d a b => fmtV 33#6 d a b 12#6 0#2 0#4 0#2
  | .vred d a o m e r => fmtV 34#6 d a o 0#6 m e r
  | .vperm d a b m e => fmtV 34#6 d a b 1#6 m e 0#2
  | .vbcast d a m e => fmtV 34#6 d a 0#4 2#6 m e 0#2
  | .vmovs d a b e => fmtV 34#6 d a b 3#6 0#2 e 0#2
  | .viota d a m e => fmtV 34#6 d a 0#4 4#6 m e 0#2
  | .vexp2 d a m r => fmtV 35#6 d a 0#4 0#6 m 7#4 r
  | .vlog2 d a m r => fmtV 35#6 d a 0#4 1#6 m 7#4 r
  | .vrcp d a m r => fmtV 35#6 d a 0#4 2#6 m 7#4 r
  | .vrsq d a m r => fmtV 35#6 d a 0#4 3#6 m 7#4 r
  | .vld d a i l => fmtVM 36#6 d a 0#4 0#4 i l
  | .vst d a i => fmtVM 36#6 d a 0#4 1#4 i 0#4
  | .vlds d a b i l => fmtVM 36#6 d a b 2#4 i l
  | .vgat d a b i l => fmtVM 36#6 d a b 3#4 i l
  | .vcvt d a s m e r => fmtV 37#6 d a s 0#6 m e r
  | .vqnt d a b m f => fmtV 37#6 d a b 1#6 m f 0#2
  | .vdqnt d a b m f r => fmtV 37#6 d a b 2#6 m f r
  | .vbfly d a b m => fmtV 38#6 d a b 0#6 m 7#4 0#2
  | .vtwid d a b m => fmtV 38#6 d a b 1#6 m 7#4 0#2
  | .vbound d a b m e r => fmtV 39#6 d a b 0#6 m e r
  | .vtopk d a b m e => fmtV 39#6 d a b 1#6 m e 0#2
  | .vgumb d a m => fmtV 39#6 d a 0#4 2#6 m 7#4 0#2
  | .vrng d a b m e => fmtV 39#6 d a b 3#6 m e 0#2
  | .vgmask d a m e => fmtV 39#6 d a 0#4 4#6 m e 0#2
  | .mma c a b x y z k u => fmtX 40#6 c a b x y z k u 0#4
  | .mcfg d a => fmtR 41#6 d a 0#4 0#4 0#6 0#4
  | .mring d a => fmtR 41#6 d a 0#4 0#4 1#6 0#4
  | .rpush d a c => fmtR 41#6 d a 0#4 c 2#6 0#4
  | .mzero c => fmtR 41#6 0#4 0#4 0#4 c 3#6 0#4
  | .mst a b c => fmtR 41#6 0#4 a b c 4#6 0#4
  | .mdup a => fmtR 41#6 0#4 a 0#4 0#4 5#6 0#4
  | .cpy d a b c l => fmtR 42#6 d a b c 0#6 l
  | .cpyw d a l => fmtR 42#6 d a 0#4 0#4 1#6 l
  | .cpyres d a => fmtR 42#6 d a 0#4 0#4 2#6 0#4
  | .gath d a l => fmtR 42#6 d a 0#4 0#4 3#6 l
  | .coll d a l => fmtR 42#6 d a 0#4 0#4 4#6 l
  | .bar d a l => fmtR 42#6 d a 0#4 0#4 5#6 l
  | .quies d l => fmtR 42#6 d 0#4 0#4 0#4 6#6 l
  | .bhash d a b l => fmtR 43#6 d a b 0#4 0#6 l
  | .pfxlook d a b l => fmtR 43#6 d a b 0#4 1#6 l
  | .pfxins d a b l => fmtR 43#6 d a b 0#4 2#6 l
  | .pfxpin d a b c l => fmtR 43#6 d a b c 3#6 l
  | .pfxunpin d a b l => fmtR 43#6 d a b 0#4 4#6 l
  | .ancm d a b l => fmtR 43#6 d a b 0#4 5#6 l
  | .kvapp d a b c l => fmtR 43#6 d a b c 6#6 l
  | .utfb d a b => fmtR 44#6 d a b 0#4 0#6 0#4
  | .trie d a b c => fmtR 44#6 d a b c 1#6 0#4
  | .ecall n => fmtS 62#6 0#4 0#4 n 0#6
  | .ebrk n => fmtS 62#6 0#4 0#4 n 1#6
  | .tret => fmtS 62#6 0#4 0#4 0#12 2#6
  | .waiti => fmtS 62#6 0#4 0#4 0#12 4#6
  | .halt => fmtS 62#6 0#4 0#4 0#12 5#6
  | _ => 0

end Sys2Proof
end

