-- ==== Sys2Proof/Config.lean ====
section
/-! DEFINITION. What the spec leaves to the implementation or leaves open: free values (no body, so nothing can be proved
of them) and the fixed figures of the part. Each free value is named by a log entry. -/
namespace Sys2Proof.Config

/-- A free value, applied to the state's counter of free values (log entry 4). -/
opaque freeValue : Nat → Word

/-- How far the nanosecond counter that core `c` reads at cycle `t` stands from the module's, 0 to 4 for -2 to +2
(08_encoding.md R138: within 2 ns; log entry 7). -/
opaque clkSkew : Cid → Nat → Fin 5

/-- Whether a fetch of a word that the instruction cache holds stale returns the old word (02_module.md R18: either). -/
opaque staleFetch : Nat → Bool

/-- What platform monitoring answers of rails and temperatures (18_host.md R299: values not given). -/
opaque managementReply : Nat → Word

/-- What a 16-byte block of an HBM reads as under key index `e` that was written under key index `k`: XTS decryption with another key
(02_module.md R23; log entry 65). -/
opaque recode : BitVec 13 → BitVec 13 → Nat → BitVec 128 → BitVec 128

/-- The key index of a peer module's access to the byte given: it travels with the access (03_addresses.md R39; log entry 65). -/
opaque peerKeyIndex : BitVec 6 → Nat → BitVec 13

/-- What SPDM measures of an image: its digest, the configuration image, and the device identity (18_host.md R299, R300; log entry 4). -/
opaque measurement : Word → Word
opaque configImage : Word
opaque deviceIdentity : Word

/-- Whether the signature of an SPDM report holds (18_host.md R300). -/
opaque reportSigned : Nat → Bool

/-- The package power limit, from the configuration image (18_host.md R301; 02_module.md R29): near it firmware throttles. -/
opaque powerLimit : Word

/-- The number of this module, 0 to 63, from the configuration image (18_host.md R296, R301). -/
opaque moduleNumber : BitVec 6

/-- The Gliuth links that reach a peer module, bit n for link n, from the configuration image (18_host.md R301). -/
opaque linksTo : BitVec 6 → BitVec 24

/-- The first core of each spare quad, from the configuration image (18_host.md R301; 10_traps.md R177). -/
opaque spareQuads : List Cid

/-- Levelling interval unless the PARTITION command sets another (05_work.md R88). -/
def levellingDefault : Nat := 4096
/-- Cycles a hold may last before its timeout (03_addresses.md R50), and a park for stack room (15_time_axes.md R248). -/
def holdTimeout : Nat := 65536
def stackTimeout : Nat := 65536
/-- Cycles between refills (04_threads.md R64). -/
def refillInterval : Nat := 1024
/-- Cycles a YIELD lasts (05_work.md R89). -/
def yieldCycles : Nat := 64
/-- Minimum issue interval of a thread in cycles (02_module.md, 04_threads.md R56). -/
def issueInterval : Nat := 4
/-- Cycles after which a refused request or message is sent again (03_addresses.md R47, 15_time_axes.md R238). -/
def resendCycles : Nat := 256
/-- Cycles after which a launch without population is aged (05_work.md R78). -/
def agingCycles : Nat := 2000000
/-- Cycles for which the idle AND must hold (11_engines.md R197). -/
def quiescenceCycles : Nat := 2048
/-- Cycles between two horizon rounds of a partition (15_time_axes.md R234). -/
def roundCycles : Nat := 128
/-- Cycles by which a notice comes ahead of a pre-emption or switch (10_traps.md R162). -/
def noticeCycles : Nat := 2000000
/-- Nanoseconds between two renewals of a firmware lease (18_host.md R298). -/
def renewNs : Nat := 2000000
/-- Nanoseconds of a firmware lease (18_host.md R298). -/
def leaseNs : Nat := 10000000
/-- Cycles within which a start must reach stage 2: 30 s (18_host.md R302). -/
def startCycles : Nat := 60000000000
/-- Cycles between two reads of a command record (18_host.md R288). -/
def refetchCycles : Nat := 2000

end Sys2Proof.Config
end

