-- ==== Sys2Proof/Machine/State.lean ====
section
/-! DEFINITION. All the state that the spec gives the machine, as plain data (INVENTORY.md lists each piece with its rule
and its reset value), the canonical form of memory, the reasons a step can stop, and the state after reset. -/
namespace Sys2Proof.Machine

/-- The reasons a step can stop with a fault. There is none: whatever a program does wrong, the spec gives a trap, a
FAILED partition or a status for it, and the machine goes on (10_traps.md R163). Safe: nothing is refused by it. -/
inductive Fault where
  deriving DecidableEq, Repr

/-- The reasons a step can be refused. -/
inductive Refusal where
  /-- The step has no meaning in this model yet; raised by an arm of exec only. Safe: nothing follows from it. -/
  | notModelled (mnemonic : String)
  deriving DecidableEq, Repr

/-! ### Memory -/

/-- The bytes of every memory, by the global byte number that `Machine/Memory.lean` gives each place. -/
abbrev Mem := List Host.Cell

/-- What a byte that nothing has written reads as. DESIGN CHOICE, unsafe (log entry 2): the spec gives no reset contents. -/
def unwritten : Byte := 0

/-- The canonical form of a memory: addresses strictly rising, no entry equal to an unwritten byte. -/
def Mem.wf : Mem → Bool
  | [] => true
  | [(_, b)] => b != unwritten
  | (a, b) :: (a', b') :: rest => b != unwritten && a < a' && Mem.wf ((a', b') :: rest)

/-- The canonical form of the list of blocks under other key indexes than 0: blocks strictly rising, no index 0. -/
def keyedWf : List (Nat × BitVec 13) → Bool
  | [] => true
  | [(_, e)] => e != 0
  | (b, e) :: (b', e') :: rest => e != 0 && b < b' && keyedWf ((b', e') :: rest)

/-- A place of memory kinds that behave differently (03_addresses.md R30, R39). -/
inductive Space where
  | loc (c : Cid)
  | shadow (c : Cid)
  | sbm
  | hbm
  | host
  | peer (m : BitVec 6)
  deriving DecidableEq, Repr

/-- What stands at a place that is not plain memory. -/
inductive Special where
  | none
  /-- The doorbell word of a quad (R84), or its second address in HBM (R296). -/
  | doorbell (quad : Nat) (mirrored : Bool)
  /-- The doorbell alias of a peer module (R296). -/
  | peerDoorbell
  /-- The watchdog word of the partition (R176). -/
  | watchdog
  deriving DecidableEq, Repr

/-- The place that an address reaches: its memory, its byte and offset, the key index of the page-table entry that translated it
(02_module.md R23; 0 where none did), and what stands there. -/
structure Place where
  space : Space
  key : Nat
  off : Nat
  enc : BitVec 13
  special : Special
  deriving DecidableEq, Repr

/-! ### A thread (04_threads.md R53) -/

/-- A write that an instruction of the prefix-and-KV unit has to make (12_prefix_index.md R199). -/
inductive UnitWrite where
  /-- An indivisible step on the state word at SBM address `a`, which sets the word empty where `claim` says so (R206, R208, R209). -/
  | step (a : Word) (x : Word) (claim : Bool)
  /-- Words stored from the address on, with their trace kind (06_ordering.md R102). -/
  | store (addr : Word) (pl : Place) (kind : BitVec 4) (ws : List Word)
  /-- A granule of a row, from where it lies to the address (21 R346). -/
  | row (addr : Word) (pl : Place) (dst : Word)
  deriving DecidableEq, Repr

/-- What an instruction of the unit still has to do once it has decided: its writes in order, the inverse-call record that it then pushes,
and its result (12_prefix_index.md R206, R208 to R210; 21 R346). -/
structure UnitRest where
  writes : List UnitWrite
  push : Option (Nat × Word × Word)
  answer : Word
  deriving DecidableEq, Repr

/-- An instruction of the prefix-and-KV unit that has begun: the word whose hold it takes, or of PFXPIN and PFXUNPIN the state word, with that
word's place, the instruction's addresses and operand, the descriptor and key words that it read, the places that it found at issue,
whether it pushes a record, and what is left once it has decided (12_prefix_index.md R199, R203, R206; 21 R346, R348). -/
structure UnitWork where
  instr : Instr
  word : Place
  addr : Word
  arg : Word
  more : Word
  desc : List Word
  data : List Word
  places : List (Word × Place)
  spec : Bool
  rest : Option UnitRest
  deriving DecidableEq, Repr

/-- What a pending result waits for (01_tutorial.md R10, 04_threads.md R57, R71). -/
inductive PendState where
  /-- The value is in hand and not yet written. -/
  | value (x : Vec)
  /-- The value is written; the lookahead window still stands. -/
  | arrived
  /-- LDF or LDFE on the wait list of the word `key`. -/
  | full (key : Nat) (take : Bool)
  /-- HOLD not yet granted. -/
  | grant (key : Nat)
  /-- RECVV without a message, with the registers as it issued (15_time_axes.md R240). -/
  | message (copy : Vector Word 16)
  /-- QUIES, counting its span from the cycle given (11_engines.md R365). -/
  | quiet
  /-- CPYW on a job. -/
  | job (j : BitVec 4)
  /-- BAR: on its way to the tree's root (`counted = false`), or counted. -/
  | barrier (n : BitVec 6) (counted : Bool)
  /-- COLL with a tag. -/
  | collective (tag : Word)
  /-- An instruction of the prefix-and-KV unit that waits for its word, or for a hold of another agent to end. -/
  | unit (u : UnitWork)
  /-- A vector load, words of which wait at a memory behind a hold (23 R393): the addresses of its elements, the lanes read so far, how many are
  still to come, and the source that a log of its value names, where it comes from outside the core. -/
  | vector (i : Instr) (addrs : Vector Word 16) (x : Vec) (left : Nat) (source : Option Word)
  /-- A load that faulted (10_traps.md R165, R166). -/
  | faulted
  deriving DecidableEq, Repr

/-- A pending result: its register (0 to 15 scalar, 16 to 31 vector), the window instructions left, how many have
issued, the instruction's address, and its place in program order (ICNT at its issue). -/
structure Pending where
  reg : BitVec 5
  left : Nat
  ran : Nat
  pc : Word
  st : PendState
  seq : Word
  deriving DecidableEq, Repr

/-- Where a held access stands: it counts as outstanding, it sleeps while its thread is in a handler (10_traps.md R166), or a
TRET has yet to issue it again (22 R378). -/
inductive HeldPhase where
  | live | asleep | due
  deriving DecidableEq, Repr

/-- A faulted access or a held wait (10_traps.md R165, R166; 04_threads.md R71): the instruction, its address and data,
the remaining window, whether it is a wait, the cause to report, a third operand, its place in program order, its phase, and
for a RECVV its address and the registers of its first issue (15_time_axes.md R240), or for a vector load its addresses (23 R393). -/
structure HeldAccess where
  instr : Instr
  addr : Word
  data : Word
  left : Nat
  isWait : Bool
  code : Byte
  detail : Byte
  tval : Word
  more : Word
  seq : Word
  phase : HeldPhase
  pc : Word
  copy : Option (Vector Word 16)
  deriving DecidableEq, Repr

/-- Why a thread is parked or waits in issue (04_threads.md R69; the `issue` cause is the wait in issue of R9, R97, R104,
R238 and R251, `budget` the wait for the next refill of R66, and `moving` the home slot of a moving thread, R67; the full queue of
`engineQueue` is 0 vector, 1 copy, 2 matrix or 3 collective). -/
inductive Park where
  | full (key : Nat)
  | work (d : Reg)
  | interrupt
  | tokens (axis : Nat)
  | horizon (vt : Word)
  | engineQueue (which : BitVec 2)
  | stack (n : Nat)
  | conflict (ids : List Nat)
  | draining (axis : Nat)
  | issue
  /-- A BAR that has not arrived, with its register and la (11_engines.md R187, R196). -/
  | bar (d la : Reg)
  | budget
  | moving
  | displaced
  deriving DecidableEq, Repr

/-- A trap cause waiting to be taken (08_encoding.md R141): code, detail and TVAL. -/
structure Cause where
  code : Byte
  detail : Byte
  tval : Word
  deriving DecidableEq, Repr

/-- The identity registers (04_threads.md R53; 05_work.md R73, R77; 03_addresses.md R32). -/
structure Identity where
  wid : Word
  widw : Word
  org : Word
  ext : Word
  ly : BitVec 7
  lx : BitVec 6
  gidx : BitVec 3
  icnt : Word
  deriving DecidableEq, Repr

/-- The trap registers (08_encoding.md R126, R139, R140; 04_threads.md R53, R59). -/
structure TrapRegs where
  tvec : Word
  tepc : Word
  tcause : Word
  tval : Word
  tscr : Word
  rptst : Word
  deriving DecidableEq, Repr

/-- The rewind stack and the rollback state (15_time_axes.md R242 to R247): the offset and the PUSHNO of each checkpoint's header
(16_boosted_tasks.md R261), the pending event, the event that has vectored and whose ROLL has not completed, and the saved target of
a ROLL in progress. -/
structure Rewind where
  rsbase : Word
  rslim : Word
  rstk : Word
  rbvec : Word
  count : Nat
  bottom : Nat
  newest : Option Nat
  marks : List (Nat × Half)
  event : Option Word
  vectored : Option Word
  target : Option Word
  deriving DecidableEq, Repr

/-- The axis, task and frame state (15_time_axes.md R231; 16_boosted_tasks.md R253; 17_run_ahead.md R273). -/
structure AxisRegs where
  lvt : Word
  axis : Word
  tvt : Word
  pushno : Half
  waittag : Option Nat
  dirmask : BitVec 16
  rwd : Bool
  rvt : Half
  deriving DecidableEq, Repr

/-- The message ring of a slot, with its SEQ; a displaced thread goes on with the SEQ of its home slot, whose handle it keeps, and `under` is the
SEQ of the slot in which it stands (15_time_axes.md R235 to R239; 10_traps.md R169). -/
structure Ring where
  mrbase : Word
  mrsize : Word
  head : Nat
  tail : Nat
  used : Nat
  seq : Half
  under : Half
  deriving DecidableEq, Repr

/-- A store to a peer module's memory that its link has not acknowledged, with the bytes, the key index and the full/empty bit
that it found, and its place among the module's stores (06_ordering.md R96, R97; 18_host.md R297). -/
structure Posted where
  peer : BitVec 6
  addr : Word
  key : Nat
  size : Nat
  old : Nat
  enc : BitVec 13
  full : Bool
  order : Nat
  deriving DecidableEq, Repr

/-- What the issue machinery keeps of a slot (04_threads.md R56 to R71, 06_ordering.md R92, 10_traps.md R162): `posted` says which PCIe
ports have carried host stores that are not complete, `fence` is the address of a FENCE system that waits for such stores while
later host stores issue (06_ordering.md R97), `starved` a slot that issues nothing before the next refill (04_threads.md R66), and `turn` the axis for whose retirement buffer a woken
thread still comes next (17_run_ahead.md R275); `parkSeq` orders the threads that stand parked, and `record` is what a parked DEFER has
copied of its record at its issue (15_time_axes.md R251). -/
structure Pipe where
  pend : List Pending
  held : List HeldAccess
  park : Option Park
  parkedAt : Nat
  parkSeq : Nat
  plainOut : Bool
  posted : BitVec 2
  fence : Option Word
  peerPosts : List Posted
  lost : Option Word
  mmaWait : Bool
  matrixWait : Option Reg
  yieldUntil : Nat
  ebud : Word
  vecIssued : Bool
  starved : Bool
  inFrame : Bool
  frame : List Half
  async : List Cause
  trapDue : Option Cause
  turn : Option Nat
  record : Option (List Word)
  irq : BitVec 128
  deriving DecidableEq, Repr

/-- A thread slot. -/
structure Thread where
  tid : Tid
  active : Bool
  part : BitVec 6
  w : Vector Word 16
  v : Vector Vec 16
  m : Vector Word 4
  pc : Word
  tstat : Word
  base : Bool
  ident : Identity
  trap : TrapRegs
  rw : Rewind
  ax : AxisRegs
  ring : Ring
  pipe : Pipe
  holding : Option Nat
  holdAddr : Word
  gang : Option (Tid × BitVec 3)
  launch : Option Half
  home : Tid
  deriving DecidableEq, Repr

/-! ### A core and its engines (02_module.md, 09_matrix_vector.md, 11_engines.md) -/

/-- The state of a copy or gather job (11_engines.md R179). -/
inductive JobState where
  | queued | running | faulted
  deriving DecidableEq, Repr

/-- A copy or gather job in use (11_engines.md R179 to R190), with the offset of its copy-region record, if it has one
(15_time_axes.md R246). -/
structure Job where
  num : BitVec 4
  owner : Tid
  src : Word
  dst : Word
  granules : Nat
  done : Nat
  skip : BitVec 16
  gather : Bool
  list : Word
  chain : Word
  nchain : Nat
  count : Nat
  pgran : Nat
  sources : Option (List (Option Word))
  st : JobState
  status : Byte
  faultAt : Word
  order : Nat
  record : Option Nat
  deriving DecidableEq, Repr

/-- An entry of the commit queue (15_time_axes.md R250 to R252; 17_run_ahead.md R279). The kinds 14 and 15 stand for a
WITHDRAW and a FAULT record on their way to the host effect ring (18_host.md R293); `live` says that its thread is still bound as it
was when it filed the entry (17 R278; 21 R341), `saved` is that thread's number while it stands in a save area, and `slot` is the slot of its
handle. -/
structure Effect where
  owner : Tid
  slot : BitVec 3
  part : BitVec 6
  ly : BitVec 7
  lx : BitVec 6
  user : Bool
  axis : Option Nat
  id : Word
  vt : Word
  kind : BitVec 4
  cls : BitVec 2
  addr : Word
  value : Word
  entry : List Word
  passed : Bool
  left : Bool
  live : Bool
  saved : Option Nat
  order : Nat
  deriving DecidableEq, Repr

/-- The format configuration of a matrix context (09_matrix_vector.md R143). -/
structure MxConfig where
  fa : BitVec 4
  fb : BitVec 4
  sca : Bool
  scb : Bool
  dside : Bool
  deriving DecidableEq, Repr

/-- An operand ring (09_matrix_vector.md R145). -/
structure MxRing where
  qc : BitVec 2
  nslot : Nat
  tile : Nat
  base : Nat
  head : Nat
  tail : Nat
  deriving DecidableEq, Repr

/-- An MMA that has captured its context (09_matrix_vector.md R144, R149, R150). -/
structure MmaRun where
  owner : Tid
  acc : BitVec 2
  ra : BitVec 3
  rb : BitVec 3
  bka : BitVec 2
  bkb : BitVec 2
  zero : Bool
  left : Nat
  step : Nat
  dup : Bool
  cfg : MxConfig
  map : BitVec 1024
  deriving DecidableEq, Repr

/-- A matrix instruction in the core's queue with the operands it read at issue (09_matrix_vector.md R144); an MST with the row
that it stores next (21 R362). -/
inductive MxOp where
  | mcfg (t : Tid) (d : Reg) (v : Word)
  | mring (t : Tid) (d : Reg) (v : Word)
  | mzero (t : Tid) (k : BitVec 2)
  | mst (t : Tid) (addr : Word) (view : Reg) (k : BitVec 2) (row : Nat)
  | mdup (t : Tid) (addr : Word)
  | mma (t : Tid) (i : Instr)
  deriving DecidableEq, Repr

/-- The matrix context of a core (09_matrix_vector.md R142). -/
structure Matrix where
  cfg : MxConfig
  map : BitVec 1024
  rings : Vector MxRing 8
  acc : Vector (BitVec 32768) 4
  mxerr : Word
  mxloc : Word
  queue : List MxOp
  run : Option MmaRun
  deriving DecidableEq, Repr

/-- A vector instruction in the engine's queue with the scalars it read at issue (09_matrix_vector.md R156). -/
structure VOp where
  owner : Tid
  instr : Instr
  s0 : Word
  s1 : Word
  deriving DecidableEq, Repr

/-- A COLL in the core's queue toward the die's engine, or past it once its input is read, with its descriptor and its thread
as an agent (11_engines.md R191, R194); an empty input is one whose read failed. -/
structure CollOp where
  owner : Tid
  part : BitVec 6
  ly : BitVec 7
  lx : BitVec 6
  user : Bool
  order : Nat
  reg : Reg
  die : BitVec 4
  src : Word
  dst : Word
  tag : Word
  word3 : Word
  mods : Word
  input : Option (List Byte)
  deriving DecidableEq, Repr

/-- A cached translation (03_addresses.md R41 to R43): its ASID, the 4 KiB page and the leaf with its level. -/
structure TlbEntry where
  asid : BitVec 16
  page : BitVec 36
  leaf : Word
  level : BitVec 2
  deriving DecidableEq, Repr

/-- The trace ring of a local memory port (06_ordering.md R102), newest entry first. -/
structure Trace where
  enabled : Bool
  seq : Half
  entries : List (Word × Word)
  deriving DecidableEq, Repr

/-- The receive log of a core (10_traps.md R174, 18_host.md R295) and the replay input (10_traps.md R175). -/
structure RecvLog where
  enabled : Bool
  region : Word
  size : Word
  records : Half
  cyc : Word
  overflow : Bool
  replay : List (Word × List Word)
  deriving DecidableEq, Repr

/-- A core; `issued` is the cycle of each slot's last issue (04_threads.md R56), `copyTurn` the job number whose granule the copy engine
moved last (11_engines.md R181), and `frozen` what the last gang stop froze: MSENT, MRECV and ICNT of slots 0 to 7 (10_traps.md R173). -/
structure Core where
  cid : Cid
  owner : Option (BitVec 6)
  eallow : Word
  last : BitVec 3
  issued : Vector (Option Nat) 8
  msent : Word
  mrecv : Word
  discarded : Word
  wlbase : Word
  wlsize : Word
  wlHead : Nat
  wlCount : Nat
  jobs : List Job
  results : List (BitVec 4 × Word)
  rotation : BitVec 4
  copyTurn : BitVec 4
  commits : List Effect
  mx : Matrix
  vq : List VOp
  cq : List CollOp
  icache : List (Nat × Half)
  tlb : List TlbEntry
  mapCache : List (BitVec 13)
  trace : Trace
  log : RecvLog
  testing : Option Nat
  shadowHolds : Option (BitVec 6)
  stopped : Bool
  frozen : Option (List Word)
  refills : Nat
  deriving DecidableEq, Repr

/-! ### A partition (10_traps.md R164, 18_host.md R291, R292) -/

/-- Where a logical core's memory lies when the map names something other than its default core
(03_addresses.md R34). -/
inductive MapTarget where
  | core (c : Cid)
  | shadow (c : Cid)
  deriving DecidableEq, Repr

/-- An open horizon round (15_time_axes.md R234): its axis and the minimum of the samples. -/
structure Round where
  axis : BitVec 6
  low : Option Word
  deriving DecidableEq, Repr

/-- A thread in a save area, with its number there and its faulted jobs, which travel with it (10_traps.md R168). -/
structure SavedThread where
  num : Nat
  thread : Thread
  jobs : List Job
  deriving DecidableEq, Repr

/-- What the save area keeps: threads for which no slot was free and the registers of vacated cores (10_traps.md R168), and the
threads and cores of a full switch (R171). -/
structure SaveArea where
  area : Word
  threads : List SavedThread
  cores : List Core
  outThreads : List SavedThread
  outCores : List Core
  deriving DecidableEq, Repr

/-- A partition. -/
structure Partition where
  num : BitVec 6
  live : Bool
  oy : BitVec 7
  ox : BitVec 6
  hm1 : BitVec 7
  wm1 : BitVec 6
  state : BitVec 4
  cause : Byte
  code : Byte
  place : BitVec 16
  val : Word
  corrected : Word
  sbmwin : Word
  ptroot : Word
  asid : BitVec 16
  ctbase : Word
  ctmiss : Word
  cttrap : Word
  barcnt : Vector Word 64
  hzn : Vector Word 64
  tvec : Word
  wdLimit : Word
  wdStart : Nat
  wdRun : Nat
  wdOnce : Bool
  level : Half
  levelAt : Nat
  brk : Bool
  iport : Bool
  erbase : Word
  ertail : Word
  erlog : BitVec 5
  erhead : Word
  erCount : Word
  map : List (BitVec 13 × MapTarget)
  round : Option Round
  roundAt : Nat
  roundAxis : BitVec 6
  quietSince : Option Nat
  save : SaveArea
  deriving DecidableEq, Repr

/-- Every thread that the save area holds. -/
def SaveArea.all (a : SaveArea) : List Thread := (a.threads ++ a.outThreads).map (·.thread)
/-- It with every thread changed by `f`. -/
def SaveArea.map (a : SaveArea) (f : Thread → Thread) : SaveArea :=
  let g (x : SavedThread) : SavedThread := { x with thread := f x.thread }
  { a with threads := a.threads.map g, outThreads := a.outThreads.map g }

/-! ### The module -/

/-- What a waiting request does at the owning memory (03_addresses.md R46, R47, R49; 05_work.md R84). -/
inductive WaitOp where
  | ldf | ldfe | stef | stf | fetest | feset
  /-- An STF that the device performs for the instruction of thread `cause` (06_ordering.md R102). -/
  | signal (cause : Tid)
  | store (kind : BitVec 4) (size : BitVec 2)
  | far (op : BitVec 4)
  | post (quad : Nat) (poster : Word)
  /-- The add of an ABOP of kind 2, with the number of the directory entry that it has recorded (20 R316; 16 R263, R264). -/
  | count (made : Option Nat)
  /-- A deferred effect's store (15_time_axes.md R252): its core's interface performs it, or with `own` the DEFER that its thread waits
  at, which with `keep` leaves the entry in the queue (17_run_ahead.md R279). -/
  | effect (e : Effect) (own keep : Bool)
  /-- What ROLL does to the word of a record (15_time_axes.md R245): 0 stores the data, with the old bit; 1 subtracts it; 2 cuts the
  length to it; 3 is the pin step that its bit 63 names. -/
  | undo (what : BitVec 2) (fe : Option Bool)
  /-- A word that the matrix unit or the prefix-and-KV unit stores for its thread (21 R362; 12_prefix_index.md R199), with its trace kind. -/
  | write (kind : BitVec 4)
  /-- The read of an element of a vector load, whose first bit in the register it names (23 R393). -/
  | lane (k : Nat)
  /-- A step of the prefix-and-KV unit on the word waits for its turn (12_prefix_index.md R199; 03_addresses.md R49). -/
  | turn
  /-- An access of a peer module (18_host.md R296): 0 load, 1 store, 2 LDF, 3 LDFE, 4 STF, 5 STEF, 6 FETEST, 7 FESET, 8 HOLD,
  9 RELEASE; any other number names none. -/
  | peer (m : BitVec 6) (op : BitVec 4)
  deriving DecidableEq, Repr

/-- A request waiting at a memory: whose (none for the host or a unit), the bytes it touches, its address, what it does,
with what data, into which register, the reserved old-value record (15_time_axes.md R246); `retryAt` is set while it is
off a full list and waits to be sent again; `seq` is its place in its thread's program order. -/
structure Waiter where
  owner : Option Tid
  pl : Place
  size : Nat
  addr : Word
  op : WaitOp
  data : Vec
  reg : Reg
  record : Option Nat
  retryAt : Option Nat
  seq : Word
  deriving DecidableEq, Repr

/-- Who holds or reserves a word: a thread, with the register of its HOLD, or a peer module (18_host.md R296), which counts as
one holder (log entry 23). -/
inductive Holder where
  | thread (t : Tid)
  | peer (m : BitVec 6)
  /-- Thread `n` of the save area of partition `p` (10_traps.md R168, R171). -/
  | saved (p : BitVec 6) (n : Nat)
  /-- No hold of R48: the word stands reserved for the step of thread `t`'s unit whose turn has come (03_addresses.md R49). -/
  | turn (t : Tid)
  deriving DecidableEq, Repr

/-- A reservation of a held word: whose, the register of its HOLD, and the key index under which the word is to be read. -/
structure Reservation where
  holder : Holder
  reg : Reg
  enc : BitVec 13
  deriving DecidableEq, Repr

/-- A held word (03_addresses.md R48 to R50): its holder, the cycle of the grant, whether the timeout was given, and the
reservations in order of arrival. -/
structure HeldWord where
  key : Nat
  holder : Holder
  since : Nat
  timedOut : Bool
  queue : List Reservation
  deriving DecidableEq, Repr

/-- What a quad shares: its dispenser's tasks and post count (05_work.md R84), and the core that its matrix unit served last
(09_matrix_vector.md R148). -/
structure Dispenser where
  quad : Nat
  tasks : List (Word × Word × Word × Word)
  posts : Word
  served : BitVec 2
  deriving DecidableEq, Repr

/-- An entry of an object directory (16_boosted_tasks.md R260). -/
structure DirEntry where
  id : Nat
  die : BitVec 4
  part : BitVec 6
  axis : Nat
  owner : Word
  tvt : Word
  handle : Word
  kind : Nat
  arg0 : Word
  pushno : Half
  deriving DecidableEq, Repr

/-- A rollback event that a cascade still has to send (16_boosted_tasks.md R267): the owner, the target, the entries that
it removes, and the entries that must have left first. -/
structure CascadeEvent where
  part : BitVec 6
  owner : Word
  target : Word
  own : List Nat
  after : List Nat
  deriving DecidableEq, Repr

/-- Where a message stands (15_time_axes.md R237, R238, R249). -/
inductive MsgState where
  | flight
  | refused (at_ : Nat)
  | heldAtReceiver
  | accepted
  deriving DecidableEq, Repr

/-- A message or anti-message until its acknowledgement; `sent` says when it was sent among the traffic of its pair of cores
(02_module.md R26). -/
structure Message where
  part : BitVec 6
  src : Cid
  handle : Word
  srcAxis : Option (BitVec 6 × Nat)
  dest : Tid
  destHandle : Word
  vt : Word
  seq : Half
  payload : List Word
  anti : Bool
  st : MsgState
  sent : Nat
  deriving DecidableEq, Repr

/-- Work-list entries in transit between two logical cores of a partition (05_work.md R88): where they go, and whence they come. -/
structure Transit where
  part : BitVec 6
  dest : BitVec 13
  back : BitVec 13
  entries : List (Word × Word)
  returned : Bool
  sent : Nat
  deriving DecidableEq, Repr

/-- A moving thread (04_threads.md R67, R68): the packed thread, the access it carries, and where it stands. -/
structure Move where
  thread : Thread
  target : Cid
  access : Option Instr
  statusReg : Option Reg
  arrived : Option Tid
  returned : Bool
  sent : Nat
  deriving DecidableEq, Repr

/-- A launch from its acceptance to its completion (05_work.md R72 to R79), with the thread whose LAUNCH it is, if one's. -/
structure Launch where
  id : Half
  part : BitVec 6
  record : List Word
  arrival : Nat
  lastPop : Nat
  aged : Bool
  placed : Option (BitVec 7 × BitVec 6 × BitVec 7 × BitVec 6)
  opening : Option (Nat × Nat)
  next : Word
  closing : Bool
  caller : Option Tid
  deriving DecidableEq, Repr

/-- A token in a retirement buffer (17_run_ahead.md R274). -/
structure Token where
  pos : Word
  token : Half
  flags : BitVec 16
  deriving DecidableEq, Repr

/-- A frame axis with its descriptor (17_run_ahead.md R271 to R281; 18_host.md R294). -/
structure FrameAxis where
  num : BitVec 14
  word0 : Word
  base : Word
  tailAddr : Word
  head : Word
  published : Word
  window : BitVec 9
  tokens : List Token
  retired : Option Word
  frames : List (Word × Bool)
  hzn : Word
  draining : Bool
  deriving DecidableEq, Repr

/-- A COPY command's job at the front end (18_host.md R290): its queue, what is left of it, and the partition whose context it
uses. -/
structure FrontCopy where
  queue : BitVec 12
  part : BitVec 6
  done : Word
  dst : Word
  src : Word
  left : Word
  deriving DecidableEq, Repr

/-- A command queue (18_host.md R286 to R288): its descriptor words, the count of the record that is read again and the cycle
from which its wait runs, the command that is not yet accepted, whether it came from a record, and what it waits for; `deadPart`
says that its partition has been torn down (R289). -/
structure CmdQueue where
  num : BitVec 12
  word0 : Word
  word1 : Word
  cons : Half
  prod : Half
  refetch : Nat
  refetchAt : Nat
  busy : Option Instr
  fetched : Bool
  sent : Bool
  sentAt : Nat
  deadPart : Bool
  deriving DecidableEq, Repr

/-- What the module sends out of the model: interrupts to the host (18_host.md R284), values read back by it, and
management responses (18_host.md R299, R300). -/
inductive Output where
  | interrupt (port : Bool) (vector : Bool)
  | hostRead (v : Word)
  | peerReply (m : BitVec 6) (v : Word)
  | peerError (m : BitVec 6)
  | management (kind : Byte) (v : Word)
  deriving DecidableEq, Repr

/-- The module registers, firmware slots and management state (18_host.md R295, R297 to R303); `newImage` says that a management image has
gone live since the last reset (R303). -/
structure Module where
  startStatus : Word
  fwlease : Word
  linkstat : Word
  dbgsel : Word
  computeImage : Word
  pendingImage : Option Word
  mgmtImage : Word
  newImage : Bool
  spares : List Cid
  replaced : List (Cid × Cid)
  failing : List Cid
  throttled : Vector Nat 16
  startedAt : Nat
  out : List Output
  deriving DecidableEq, Repr

/-- The machine. `th`, `core` and `part` are the thread whose instruction is executed, its core and its partition; the
others stand in the lists, one entry each, and a slot, core or partition that has no entry is as after reset. `keyed` lists the
16-byte blocks of HBM that were last written under another key index than 0, with that index (02_module.md R23). -/
structure State where
  th : Thread
  core : Core
  part : Partition
  others : List Thread
  cores : List Core
  parts : List Partition
  mem : Mem
  keyed : List (Nat × BitVec 13)
  empties : List Nat
  poison : List Nat
  badTags : List Nat
  waiters : List Waiter
  held : List HeldWord
  dispensers : List Dispenser
  dir : List DirEntry
  cascade : List CascadeEvent
  messages : List Message
  transits : List Transit
  moves : List Move
  launches : List Launch
  axes : List FrameAxis
  tlb2 : List (BitVec 4 × TlbEntry)
  queues : List CmdQueue
  copies : List FrontCopy
  modl : Module
  cycle : Nat
  nextId : Nat
  freeCtr : Nat
  engineTurn : Bool
  issueNow : Bool
  inbox : List Instr
  deriving DecidableEq, Repr

/-! ### Reset -/

/-- A slot that holds no thread (log entry 1: the spec gives its registers no value before population). -/
def Thread.unpopulated (t : Tid) : Thread :=
  { tid := t, active := false, part := 0,
    w := Vector.replicate 16 0, v := Vector.replicate 16 0,
    m := #v[BitVec.allOnes 64, 0, 0, 0], pc := 0, tstat := 0, base := false,
    ident := { wid := 0, widw := 0, org := 0, ext := 0, ly := 0, lx := 0, gidx := 0, icnt := 0 },
    trap := { tvec := 0, tepc := 0, tcause := 0, tval := 0, tscr := 0, rptst := 0 },
    rw := { rsbase := 0, rslim := 0, rstk := 0, rbvec := 0, count := 0, bottom := 0, newest := none, marks := [],
            event := none, vectored := none, target := none },
    ax := { lvt := 0, axis := 0, tvt := 0, pushno := 0, waittag := none, dirmask := 0, rwd := false, rvt := 0 },
    ring := { mrbase := 0, mrsize := 0, head := 0, tail := 0, used := 0, seq := 0, under := 0 },
    pipe := { pend := [], held := [], park := none, parkedAt := 0, parkSeq := 0, plainOut := false, posted := 0,
              fence := none, peerPosts := [], lost := none, mmaWait := false, matrixWait := none, yieldUntil := 0, ebud := 0,
              vecIssued := false, starved := false, inFrame := false, frame := [], async := [], trapDue := none, turn := none, record := none, irq := 0 },
    holding := none, holdAddr := 0, gang := none, launch := none, home := t }

/-- A disabled ring. -/
def MxRing.disabled : MxRing := { qc := 0, nslot := 0, tile := 0, base := 0, head := 0, tail := 0 }

/-- The matrix context at reset and when a core is given to a partition (09_matrix_vector.md R142). -/
def Matrix.initial : Matrix :=
  { cfg := { fa := 1, fb := 1, sca := false, scb := false, dside := false }, map := 0,
    rings := Vector.replicate 8 MxRing.disabled, acc := Vector.replicate 4 0, mxerr := 0, mxloc := 0,
    queue := [], run := none }

/-- A core after reset: the slot that issued last is slot 7 and the counters are zero (log entry 1); EALLOW is 131,072
(04_threads.md R63). -/
def Core.initial (c : Cid) : Core :=
  { cid := c, owner := none, eallow := 131072, last := 7, issued := Vector.replicate 8 none, msent := 0, mrecv := 0, discarded := 0,
    wlbase := 0, wlsize := 0, wlHead := 0, wlCount := 0, jobs := [], results := [], rotation := 0, copyTurn := 15,
    commits := [], mx := Matrix.initial, vq := [], cq := [], icache := [], tlb := [], mapCache := [],
    trace := { enabled := false, seq := 0, entries := [] },
    log := { enabled := false, region := 0, size := 0, records := 0, cyc := 0, overflow := false, replay := [] },
    testing := none, shadowHolds := none, stopped := false, frozen := none, refills := 0 }

/-- A partition number that names no partition. -/
def Partition.absent (p : BitVec 6) : Partition :=
  { num := p, live := false, oy := 0, ox := 0, hm1 := 0, wm1 := 0, state := 0, cause := 0, code := 0, place := 0,
    val := 0, corrected := 0, sbmwin := 0, ptroot := 0, asid := 0, ctbase := 0, ctmiss := 0, cttrap := 0,
    barcnt := Vector.replicate 64 0, hzn := Vector.replicate 64 0, tvec := 0, wdLimit := 0, wdStart := 0, wdRun := 0,
    wdOnce := false, level := BitVec.ofNat 32 Config.levellingDefault, levelAt := 0, brk := false, iport := false,
    erbase := 0, ertail := 0, erlog := 0, erhead := 0, erCount := 0, map := [], round := none, roundAt := 0, roundAxis := 63, quietSince := none,
    save := { area := 0, threads := [], cores := [], outThreads := [], outCores := [] } }

/-- The module after reset: stage 0, no partition, no thread, every word full, no byte written (18_host.md R302, R303;
03_addresses.md R45). -/
def State.reset : State :=
  { th := Thread.unpopulated 0, core := Core.initial 0, part := Partition.absent 0,
    others := [], cores := [], parts := [], mem := [], keyed := [], empties := [], poison := [], badTags := [], waiters := [], held := [],
    dispensers := [], dir := [], cascade := [], messages := [], transits := [], moves := [], launches := [],
    axes := [], tlb2 := [], queues := [], copies := [],
    modl := { startStatus := 0, fwlease := 0, linkstat := 0, dbgsel := 0, computeImage := 0, pendingImage := none,
              mgmtImage := 0, newImage := false, spares := [], replaced := [], failing := [], throttled := Vector.replicate 16 0,
              startedAt := 0, out := [] },
    cycle := 0, nextId := 0, freeCtr := 0, engineTurn := false, issueNow := false, inbox := [] }

end Sys2Proof.Machine
end

