-- ==== Sys2Proof/Machine/Memory.lean ====
section
/-! DEFINITION. The memories as bytes: reading and writing cells in canonical form, the numbering of every place
(02_module.md R20, R22; 03_addresses.md R30, R39), full/empty bits and uncorrectable errors. -/
namespace Sys2Proof.Machine

/-- The byte at `a`. -/
def Mem.read : Mem → Nat → Byte
  | [], _ => unwritten
  | (a', b) :: rest, a => if a = a' then b else if a < a' then unwritten else Mem.read rest a

/-- A list of cells without an entry for an unwritten byte at its head. -/
def Mem.cons (a : Nat) (b : Byte) (m : Mem) : Mem := if b = unwritten then m else (a, b) :: m

/-- The memory with byte `b` at `a`. -/
def Mem.write : Mem → Nat → Byte → Mem
  | [], a, b => Mem.cons a b []
  | (a', b') :: rest, a, b =>
    if a = a' then Mem.cons a b rest
    else if a < a' then Mem.cons a b ((a', b') :: rest)
    else (a', b') :: Mem.write rest a b

/-- The `n` bytes from `a`, little-endian (00_scope.md R4). -/
def Mem.readN (m : Mem) (a : Nat) : Nat → Nat
  | 0 => 0
  | n + 1 => (m.read a).toNat + 256 * Mem.readN m (a + 1) n

/-- The memory with the `n` low bytes of `v` from `a`, little-endian. -/
def Mem.writeN (m : Mem) (a : Nat) : Nat → Nat → Mem
  | 0, _ => m
  | n + 1, v => Mem.writeN (m.write a (BitVec.ofNat 8 v)) (a + 1) n (v / 256)

/-- The word, half and 64-byte vector at `a`. -/
def Mem.word (m : Mem) (a : Nat) : Word := BitVec.ofNat 64 (m.readN a 8)
def Mem.half (m : Mem) (a : Nat) : Half := BitVec.ofNat 32 (m.readN a 4)
def Mem.vec (m : Mem) (a : Nat) : Vec := BitVec.ofNat 512 (m.readN a 64)

/-- Memory with the bytes of the list from `a`. -/
def Mem.writeList (m : Mem) (a : Nat) : List Byte → Mem
  | [] => m
  | b :: bs => Mem.writeList (m.write a b) (a + 1) bs

/-! ### Where each place lies -/

def localBytes : Nat := 2097152

/-- Byte `off` of core `c`'s local memory. -/
def locKey (c : Cid) (off : Nat) : Nat := c.toNat * localBytes + off
/-- Byte `off` of core `c`'s shadow slice (02_module.md R19). -/
def shadowKey (c : Cid) (off : Nat) : Nat := 2 ^ 53 + c.toNat * localBytes + off
/-- Byte `off` of die `d`'s shared bank memory (R20). -/
def sbmKey (d off : Nat) : Nat := 2 ^ 50 + d * 2 ^ 28 + off
/-- Byte `phys` of the module's HBM (R22). -/
def hbmKey (phys : Nat) : Nat := 2 ^ 51 + phys
/-- Byte at a PCIe bus address. -/
def hostKey (bus : Nat) : Nat := 2 ^ 60 + bus
/-- Byte `phys` of a peer module's HBM (R39). -/
def peerKey (m : BitVec 6) (phys : Nat) : Nat := 2 ^ 54 + m.toNat * 2 ^ 41 + phys

/-- The word that holds byte `k`. -/
def wordKey (k : Nat) : Nat := k / 8 * 8

/-! ### Key indexes of HBM blocks (R23) -/

/-- Byte `k` lies in an HBM, this module's or a peer's. -/
def inHbm (k : Nat) : Bool := (2 ^ 51 ≤ k && k < 2 ^ 52) || (2 ^ 54 ≤ k && k < 2 ^ 57)

/-- The 16-byte blocks that hold the `n` bytes from `k` on. -/
def blocksOf (k n : Nat) : List Nat := if inHbm k && n ≠ 0 then (List.range ((k + n + 15) / 16 - k / 16)).map (· + k / 16) else []

/-- The key index under which block `b` was last written. -/
def State.blockKey (s : State) (b : Nat) : BitVec 13 := ((s.keyed.find? (·.1 = b)).map (·.2)).getD 0

/-- Block `b` noted as written under key index `e`. -/
def putKeyed (b : Nat) (e : BitVec 13) : List (Nat × BitVec 13) → List (Nat × BitVec 13)
  | [] => if e = 0 then [] else [(b, e)]
  | x :: xs =>
    if x.1 = b then (if e = 0 then xs else (b, e) :: xs)
    else if b < x.1 then (if e = 0 then x :: xs else (b, e) :: x :: xs)
    else x :: putKeyed b e xs

/-- The memory as an access under key index `e` to the `n` bytes from `k` on finds it: blocks written under another index read as
`Config.recode` says. -/
def State.under (s : State) (e : BitVec 13) (k n : Nat) : Mem :=
  (blocksOf k n).foldl (fun m b =>
    if s.blockKey b = e then m
    else m.writeN (16 * b) 16 (Config.recode (s.blockKey b) e b (BitVec.ofNat 128 (m.readN (16 * b) 16))).toNat) s.mem

/-- The `n` bytes at a place, and `n` bytes `i` past it. -/
def State.bytesAt (s : State) (pl : Place) (n : Nat) : Nat := (s.under pl.enc pl.key n).readN pl.key n
def Place.up (pl : Place) (i : Nat) : Place := { pl with key := pl.key + i, off := pl.off + i }

/-- The word and the half at a place. -/
def State.wordAt (s : State) (pl : Place) : Word := BitVec.ofNat 64 (s.bytesAt pl 8)
def State.halfAt (s : State) (pl : Place) : Half := BitVec.ofNat 32 (s.bytesAt pl 4)

/-- The state with the `n` low bytes of `v` at a place. -/
def State.putBytes (s : State) (pl : Place) (n v : Nat) : State :=
  { s with
    mem := (s.under pl.enc pl.key n).writeN pl.key n v
    keyed := (blocksOf pl.key n).foldl (fun l b => putKeyed b pl.enc l) s.keyed }

/-! ### Sorted sets of word keys -/

def insertKey : List Nat → Nat → List Nat
  | [], k => [k]
  | x :: xs, k => if k = x then x :: xs else if k < x then k :: x :: xs else x :: insertKey xs k

/-- The full/empty bit of the word of byte `k` (03_addresses.md R45): true is full. -/
def State.isFull (s : State) (k : Nat) : Bool := !s.empties.contains (wordKey k)

/-- Sets the full/empty bit. -/
def State.setFull (s : State) (k : Nat) (full : Bool) : State :=
  if full then { s with empties := s.empties.filter (· ≠ wordKey k) }
  else { s with empties := insertKey s.empties (wordKey k) }

/-- The lowest of some numbers. -/
def lowest : List Nat → Option Nat
  | [] => none
  | x :: xs =>
    match lowest xs with
    | none => some x
    | some y => some (Nat.min x y)
/-- The lowest word from byte `k` on over `n` bytes that holds an uncorrectable error. -/
def State.poisonIn (s : State) (k n : Nat) : Option Nat :=
  lowest (s.poison.filter (fun p => wordKey k ≤ p && p < k + n))

/-- Errors of words that a write of `n` bytes at `k` covers whole are gone (22 R373). -/
def State.clearPoison (s : State) (k n : Nat) : State :=
  { s with poison := s.poison.filter (fun p => !(k ≤ p && p + 8 ≤ k + n)) }

end Sys2Proof.Machine
end

