-- ==== Sys2Proof/Machine/Regs.lean ====
section
/-! DEFINITION. Reading and writing the registers of the current thread, the status bits of TSTAT (04_threads.md R54, R55),
and finding, replacing and making current a thread, core or partition. -/
namespace Sys2Proof.Machine

abbrev Result := Host.Outcome State Fault Refusal

/-! ### Replacing one entry of a keyed list -/

/-- `xs` with the first element that `p` picks replaced by `x`, or with `x` added when there is none. -/
def putBy {α : Type} (p : α → Bool) (x : α) : List α → List α
  | [] => [x]
  | y :: ys => if p y then x :: ys else y :: putBy p x ys

/-- `xs` with every element that `p` picks changed by `f`. -/
def updBy {α : Type} (p : α → Bool) (f : α → α) (xs : List α) : List α := xs.map (fun x => if p x then f x else x)

/-! ### Scalar, mask and vector registers of a thread -/

/-- w[r]; w0 reads as zero (R54). -/
def Thread.rd (t : Thread) (r : Reg) : Word := if r = 0 then 0 else t.w[r.toNat]
/-- The thread with w[r] written; a write to w0 is discarded. -/
def Thread.wr (t : Thread) (r : Reg) (x : Word) : Thread := if r = 0 then t else { t with w := t.w.set r.toNat x }

/-- m[r]; m0 reads as all ones (R54). -/
def Thread.rdm (t : Thread) (r : BitVec 2) : Word := if r = 0 then allOnes else t.m[r.toNat]

/-- v[r] (R54). -/
def Thread.rdv (t : Thread) (r : Reg) : Vec := t.v[r.toNat]

/-! ### TSTAT (R55) -/

def tSP : Nat := 9
def tIE : Nat := 8
def tBOOST : Nat := 7
def tSPEC : Nat := 6
def tGDIS : Nat := 5
def tUNW : Nat := 4
def tVDIRTY : Nat := 3
def tROAM : Nat := 2

/-- A status bit. -/
def Thread.st (t : Thread) (b : Nat) : Bool := bit t.tstat b
/-- The thread with a status bit set or cleared. -/
def Thread.setSt (t : Thread) (b : Nat) (x : Bool) : Thread := { t with tstat := setBit t.tstat b x }
/-- User privilege: PRIV is 0b00 (R55). -/
def Thread.isUser (t : Thread) : Bool := bits t.tstat 1 0 = 0
/-- PRIV := `p`. -/
def Thread.setPriv (t : Thread) (p : Nat) : Thread := { t with tstat := setBits t.tstat 1 0 p }

/-- The thread with v[r] written; VDIRTY is set (R55). -/
def Thread.wrv (t : Thread) (r : Reg) (x : Vec) : Thread := { t.setSt tVDIRTY true with v := t.v.set r.toNat x }
/-- The thread with m[r] written; a write to m0 is discarded (R54), any other sets VDIRTY (R55). -/
def Thread.wrm (t : Thread) (r : BitVec 2) (x : Word) : Thread :=
  if r = 0 then t else { t.setSt tVDIRTY true with m := t.m.set r.toNat x }

/-- The core and slot of a thread. -/
def tidCore (t : Tid) : Cid := t.extractLsb' 3 13
def tidSlot (t : Tid) : BitVec 3 := t.extractLsb' 0 3
def mkTid (c : Cid) (n : BitVec 3) : Tid := c ++ n
def Thread.cid (t : Thread) : Cid := tidCore t.tid
def Thread.slot (t : Thread) : BitVec 3 := tidSlot t.tid

/-- Row and column of a physical core (R15), and its die (R14). -/
def cidPY (c : Cid) : BitVec 7 := c.extractLsb' 6 7
def cidPX (c : Cid) : BitVec 6 := c.extractLsb' 0 6
def mkCid (py : BitVec 7) (px : BitVec 6) : Cid := py ++ px
def cidDie (c : Cid) : BitVec 4 := (cidPY c).extractLsb' 5 2 ++ (cidPX c).extractLsb' 4 2

/-- The quad of a core, as a number over the module: the row pair and the column pair (R16). -/
def cidQuad (c : Cid) : Nat := (cidPY c).toNat / 2 * 32 + (cidPX c).toNat / 2

/-- A local-absolute thread handle (03_addresses.md R35). -/
def mkHandle (ly : BitVec 7) (lx : BitVec 6) (slot : BitVec 3) : Word :=
  BitVec.ofNat 64 (ly.toNat * 2 ^ 27 + lx.toNat * 2 ^ 21 + slot.toNat)

/-- The thread's own handle, which a displaced thread keeps (10_traps.md R169). -/
def Thread.handle (t : Thread) : Word := mkHandle t.ident.ly t.ident.lx (tidSlot t.home)

/-! ### The current thread, its core and its partition -/

/-- The state with the current thread changed. -/
def State.mapTh (s : State) (f : Thread → Thread) : State := { s with th := f s.th }
def State.mapCore (s : State) (f : Core → Core) : State := { s with core := f s.core }
def State.mapPart (s : State) (f : Partition → Partition) : State := { s with part := f s.part }

/-- w[r] of the current thread, and writes to its registers. -/
def State.rd (s : State) (r : Reg) : Word := s.th.rd r
def State.wr (s : State) (r : Reg) (x : Word) : State := s.mapTh (·.wr r x)
def State.rdv (s : State) (r : Reg) : Vec := s.th.rdv r
def State.wrv (s : State) (r : Reg) (x : Vec) : State := s.mapTh (·.wrv r x)
def State.rdm (s : State) (r : BitVec 2) : Word := s.th.rdm r
def State.wrm (s : State) (r : BitVec 2) (x : Word) : State := s.mapTh (·.wrm r x)

/-- The thread of a slot, wherever it stands. -/
def State.thread (s : State) (t : Tid) : Thread :=
  if s.th.tid = t then s.th else (s.others.find? (·.tid == t)).getD (Thread.unpopulated t)

/-- The state with the thread of a slot replaced. -/
def State.putThread (s : State) (x : Thread) : State :=
  if s.th.tid = x.tid then { s with th := x } else { s with others := putBy (·.tid == x.tid) x s.others }

/-- The thread of slot `t` changed by `f`. -/
def State.updThread (s : State) (t : Tid) (f : Thread → Thread) : State := s.putThread (f (s.thread t))

def State.coreOf (s : State) (c : Cid) : Core :=
  if s.core.cid = c then s.core else (s.cores.find? (·.cid == c)).getD (Core.initial c)
def State.putCore (s : State) (x : Core) : State :=
  if s.core.cid = x.cid then { s with core := x } else { s with cores := putBy (·.cid == x.cid) x s.cores }
def State.updCore (s : State) (c : Cid) (f : Core → Core) : State := s.putCore (f (s.coreOf c))

/-- Every core changed by `f`. -/
def State.eachCore (s : State) (f : Core → Core) : State := { s with core := f s.core, cores := s.cores.map f }

def State.partOf (s : State) (p : BitVec 6) : Partition :=
  if s.part.num = p then s.part else (s.parts.find? (·.num == p)).getD (Partition.absent p)
def State.putPart (s : State) (x : Partition) : State :=
  if s.part.num = x.num then { s with part := x } else { s with parts := putBy (·.num == x.num) x s.parts }
def State.updPart (s : State) (p : BitVec 6) (f : Partition → Partition) : State := s.putPart (f (s.partOf p))
/-- The partition is switched out: its threads, axes, horizons and messages stand still (10_traps.md R171). -/
def State.away (s : State) (p : BitVec 6) : Bool := (s.partOf p).state = 2

/-- Makes core `c` the current core. -/
def State.focusCore (s : State) (c : Cid) : State :=
  if s.core.cid = c then s
  else { s with core := s.coreOf c, cores := s.core :: s.cores.filter (·.cid != c) }

/-- Makes partition `p` the current partition. -/
def State.focusPart (s : State) (p : BitVec 6) : State :=
  if s.part.num = p then s
  else { s with part := s.partOf p, parts := s.part :: s.parts.filter (·.num != p) }

/-- Makes the thread of slot `t` current, and with it its core and its partition. -/
def State.focus (s : State) (t : Tid) : State :=
  let s1 := if s.th.tid = t then s
    else { s with th := s.thread t, others := s.th :: s.others.filter (·.tid != t) }
  (s1.focusCore (tidCore t)).focusPart s1.th.part

/-- Every slot that has an entry. -/
def State.threads (s : State) : List Thread := s.th :: s.others
/-- Every active thread. -/
def State.activeThreads (s : State) : List Thread := s.threads.filter (·.active)
/-- The active threads of a core, in slot order. -/
def State.coreThreads (s : State) (c : Cid) : List Thread :=
  (List.range 8).map (fun n => s.thread (mkTid c (BitVec.ofNat 3 n))) |>.filter (·.active)

/-- A fresh number for an entry that must be told from every other. -/
def State.fresh (s : State) : Nat × State := (s.nextId, { s with nextId := s.nextId + 1 })

/-- A number for each transfer between two cores, in the order sent (02_module.md R26). -/
def State.stamp (s : State) : Nat := s.nextId
def State.stamped (s : State) : State := { s with nextId := s.nextId + 1 }

/-- A free value and the state that has used it (log entry 4). -/
def State.freeWord (s : State) : Word × State := (Config.freeValue s.freeCtr, { s with freeCtr := s.freeCtr + 1 })

/-- Some free words, for the words of a ring entry that the spec does not state (log entry 4). -/
def State.freeWords (s : State) : Nat → List Word × State
  | 0 => ([], s)
  | n + 1 =>
    let (x, s1) := s.freeWord
    let (xs, s2) := s1.freeWords n
    (x :: xs, s2)

/-- CLK as core `c` reads it: nanoseconds since module start, two cycles each, within 2 ns either way (02_module.md R29; 08_encoding.md R138;
log entry 7). -/
def State.clk (s : State) (c : Cid) : Word :=
  BitVec.ofNat 64 ((s.cycle - s.modl.startedAt) / 2 + (Config.clkSkew c s.cycle).val - 2)

/-- Sends something out of the module. -/
def State.output (s : State) (o : Output) : State := { s with modl := { s.modl with out := s.modl.out ++ [o] } }

/-- An interrupt to the host (18_host.md R284): vector 0 for a queue, 1 for a partition; in minimal mode port 0 only runs (R303). -/
def State.interrupt (s : State) (port vector : Bool) : State :=
  if port && bits s.modl.startStatus 3 0 = 15 then s else s.output (.interrupt port vector)

end Sys2Proof.Machine
end

