-- ==== Sys2Proof/Machine/Address.lean ====
section
/-! DEFINITION. How an address reaches a memory: the four spaces (03_addresses.md R30), alignment (R31), partition bounds
(R33), the core map (R34), the SBM window (R36), the page table (R37 to R42), special words (05_work.md R84, R85; 10_traps.md
R176) and the doorbell window (18_host.md R296), with the checks in the order of 08_encoding.md R141. -/
namespace Sys2Proof.Machine

/-- What an access does, for the permission it needs (R40) and for the special words (R84, R176). -/
inductive Access where
  /-- A plain load: LD and LDS. -/
  | load
  /-- A relaxed load. -/
  | loadRx
  /-- Any other read: vector loads, descriptors, unit reads. -/
  | read
  /-- A plain store, or any other write that needs W only. -/
  | store
  /-- STF, by a program, a deferred effect or a command. -/
  | stf
  /-- LDF, FETEST: reads of the full/empty group. -/
  | feRead
  /-- STEF, FESET. -/
  | feWrite
  /-- LDFE, HOLD, RELEASE: reads and writes. -/
  | feBoth
  /-- Instruction fetch. -/
  | fetch
  /-- A read by the front end or a unit on a thread's behalf, to which a special word reads as 0 (05_work.md R85). -/
  | unitRead
  /-- Copy, gather and other engine reads and writes. -/
  | engineRead
  | engineWrite
  deriving DecidableEq, Repr

/-- The access writes. -/
def Access.writes : Access → Bool
  | .store | .stf | .feWrite | .feBoth | .engineWrite => true
  | _ => false
/-- The access reads. -/
def Access.reads : Access → Bool
  | .load | .loadRx | .read | .feRead | .feBoth | .engineRead | .unitRead => true
  | _ => false
/-- The access needs full/empty bits, which host memory lacks (R44). -/
def Access.needsFe : Access → Bool
  | .stf | .feRead | .feWrite | .feBoth => true
  | _ => false
/-- The access is an engine's. -/
def Access.engine : Access → Bool
  | .engineRead | .engineWrite => true
  | _ => false
/-- The page-fault cause of the access (R40). -/
def Access.pageFault : Access → Byte
  | .fetch => 0x09
  | .store | .stf | .feWrite | .feBoth | .engineWrite => 0x08
  | _ => 0x07

/-- Who makes an access: the thread's partition, home logical core, privilege and physical core. -/
structure Agent where
  tid : Tid
  part : BitVec 6
  ly : BitVec 7
  lx : BitVec 6
  user : Bool
  deriving DecidableEq, Repr

def Thread.agent (t : Thread) : Agent := ⟨t.tid, t.part, t.ident.ly, t.ident.lx, t.isUser⟩

/-! ### Partition geometry -/

/-- Width and height. -/
def Partition.W (p : Partition) : Nat := p.wm1.toNat + 1
def Partition.H (p : Partition) : Nat := p.hm1.toNat + 1

/-- The default physical core of logical (y, x) (18_host.md R291). -/
def Partition.home (p : Partition) (ly : BitVec 7) (lx : BitVec 6) : Cid := mkCid (p.oy + ly) (p.ox + lx)

/-- Where the memory of logical (y, x) lies (R34). -/
def Partition.target (p : Partition) (ly : BitVec 7) (lx : BitVec 6) : MapTarget :=
  ((p.map.find? (·.1 == (ly ++ lx : BitVec 13))).map (·.2)).getD (.core (p.home ly lx))

/-- The physical core whose memory or shadow slice stands for logical (y, x). -/
def Partition.physical (p : Partition) (ly : BitVec 7) (lx : BitVec 6) : Cid :=
  match p.target ly lx with
  | .core c => c
  | .shadow c => c

/-- What is on its way from core `a` to core `b` and was sent before `n`: messages, work-list entries and moving threads (02_module.md R26),
apart from those of a partition that is switched out (10_traps.md R171). -/
def State.pathBusy (s : State) (a b : Cid) (n : Nat) : Bool :=
  let at_ (p : BitVec 6) (l : BitVec 13) : Cid := (s.partOf p).physical (cidPY l) (cidPX l)
  s.messages.any (fun m => m.src == a && tidCore m.dest == b && m.st = .flight && m.sent < n && !s.away m.part) ||
  s.transits.any (fun x => at_ x.part x.back == a && at_ x.part x.dest == b && x.sent < n && !s.away x.part) ||
  s.moves.any (fun m => m.arrived.isNone && !s.away m.thread.part && (if m.returned then m.target == a && tidCore m.thread.tid == b
    else tidCore m.thread.tid == a && m.target == b) && m.sent < n)

/-! ### The checks on an address, in order -/

def causeOf (code : Byte) (tval : Word) : Cause := ⟨code, 0, tval⟩

/-- Bits 63:62, the space. -/
def addrSpace (a : Word) : Nat := bits a 63 62

/-- The must-be-zero bits of the space are zero (R30). -/
def addrMbz (a : Word) : Bool :=
  match addrSpace a with
  | 1 => bits a 61 32 = 0
  | 2 => bits a 61 48 = 0
  | _ => bits a 61 34 = 0

/-- The logical row and column of a local address, relative ones against the agent's core (R33): none when it lies outside
the partition. -/
def resolveLocal (p : Partition) (ag : Agent) (a : Word) : Option (BitVec 7 × BitVec 6) :=
  let fy : BitVec 7 := a.extractLsb' 27 7
  let fx : BitVec 6 := a.extractLsb' 21 6
  let y : Int := if addrSpace a = 3 then ag.ly.toNat + fy.toInt else fy.toNat
  let x : Int := if addrSpace a = 3 then ag.lx.toNat + fx.toInt else fx.toNat
  if 0 ≤ y ∧ y < p.H ∧ 0 ≤ x ∧ x < p.W then some (BitVec.ofInt 7 y, BitVec.ofInt 6 x) else none

/-- A local address in local-absolute form (R33), any other unchanged. -/
def absolute (p : Partition) (ag : Agent) (a : Word) : Word :=
  if addrSpace a = 3 then
    match resolveLocal p ag a with
    | some (y, x) => BitVec.ofNat 64 (y.toNat * 2 ^ 27 + x.toNat * 2 ^ 21 + bits a 20 0)
    | none => a
  else a

/-- The SBM window lets the partition address `off` on `die` (R36). -/
def sbmAllowed (p : Partition) (die off : Nat) : Bool :=
  bit p.sbmwin (48 + die) && bits p.sbmwin 11 0 ≤ off / 65536 && off / 65536 ≤ bits p.sbmwin 27 16

/-! ### Page tables -/

/-- Bits of a leaf or pointer entry (R39). -/
def pteV (e : Word) : Bool := bit e 0
def pteLeaf (e : Word) : Bool := bit e 1
def pteR (e : Word) : Bool := bit e 2
def pteW (e : Word) : Bool := bit e 3
def pteX (e : Word) : Bool := bit e 4
def pteU (e : Word) : Bool := bit e 5
def pteC16 (e : Word) : Bool := bit e 7
def pteTgt (e : Word) : Nat := bits e 49 48
def pteKey (e : Word) : BitVec 13 := e.extractLsb' 50 13
def ptePA (e : Word) : Nat := bits e 47 12 * 4096

/-- Address bits below a page of the level (R38, R41). -/
def pageBits (level : Nat) (c16 : Bool) : Nat :=
  match level with
  | 0 => if c16 then 16 else 12
  | 1 => 21
  | _ => 30

/-- The entry itself is malformed at its level (R40, all but the permissions). -/
def pteBad (level : Nat) (e : Word) : Bool :=
  !pteV e ||
  (pteLeaf e && level = 3) || (!pteLeaf e && level = 0) ||
  (!pteLeaf e && pteTgt e ≠ 0) || (pteLeaf e && pteTgt e = 3) ||
  bit e 63 || bits e 11 8 ≠ 0 || bit e 6 || (pteC16 e && !(pteLeaf e && level = 0)) ||
  (pteTgt e = 0 && bits e 47 41 ≠ 0) || (pteLeaf e && pteTgt e = 1 && bit e 41) ||
  (pteLeaf e && (level = 1 || level = 2) && ptePA e % 2 ^ pageBits level false ≠ 0)

/-- The access meets the leaf's permissions (R40). -/
def ptePermits (e : Word) (ac : Access) (user : Bool) : Bool :=
  (pteU e || !user) && (!ac.reads || pteR e) && (!ac.writes || pteW e) && (ac ≠ .fetch || pteX e)

/-- Why a walk gave no leaf. -/
inductive WalkFail where
  /-- A page fault (R40). -/
  | page
  /-- A table word with an uncorrectable error (R398). -/
  | error
  deriving DecidableEq, Repr

/-- The place of an HBM address that no page-table entry translated: key index 0 (02_module.md R23). -/
def hbmPlace (phys : Nat) : Place := ⟨.hbm, hbmKey phys, phys, 0, .none⟩

/-! ### What is out of reach -/

/-- Die `d` is not offered: in minimal mode only die (0, 0) is (18_host.md R303). -/
def State.dieOff (s : State) (d : Nat) : Bool := bits s.modl.startStatus 3 0 = 15 && d ≠ 0

/-- No link reaches the peer (18_host.md R297), or peers are disabled (R303). -/
def peerDown (s : State) (m : BitVec 6) : Bool :=
  (Config.linksTo m &&& ~~~ (s.modl.linkstat.extractLsb' 0 24)) = 0 || bits s.modl.startStatus 3 0 = 15

/-- The place belongs to a peer that is out of reach, or to an HBM stack of a die that is not offered. DESIGN CHOICE (log entry 79): an
access to the latter takes the page fault, and a fetch from either takes code 0x09, a fetch's, where R297 names 0x07 and 0x08 only. -/
def Place.cutOff (pl : Place) (s : State) : Bool :=
  match pl.space with
  | .peer m => peerDown s m
  | .hbm => pl.special = .none && s.dieOff (pl.off / 2 ^ 37)
  | _ => false

/-- The walk from the table at HBM address `table`, at `level`, with `fuel` levels left (R38, R40, R398). -/
def walk (s : State) (va : Word) : Nat → Nat → Nat → Except WalkFail (Word × Nat)
  | 0, _, _ => .error .page
  | fuel + 1, level, table =>
    let pl := hbmPlace (table + 8 * (va.toNat / 2 ^ (12 + 9 * level) % 512))
    if pl.cutOff s then .error .page
    else if (s.poisonIn pl.key 8).isSome then .error .error
    else
      let e := s.wordAt pl
      if pteBad level e then .error .page
      else if pteLeaf e then .ok (e, level)
      else walk s va fuel (level - 1) (ptePA e)

/-- The walk of a partition's table (R37). -/
def walkFrom (s : State) (p : Partition) (va : Word) : Except WalkFail (Word × Nat) :=
  walk s va 4 3 (bits p.ptroot 40 12 * 4096)

/-- The translation that a TLB entry gives of `va`. -/
def TlbEntry.hit (e : TlbEntry) (asid : BitVec 16) (va : Word) : Bool :=
  e.asid = asid &&
  va.toNat % 2 ^ 48 / 2 ^ pageBits e.level.toNat (pteC16 e.leaf) =
    e.page.toNat * 4096 / 2 ^ pageBits e.level.toNat (pteC16 e.leaf)

/-- The leaf that translates `va` for an access of the core: the core's TLB, then the die's, then the walk (R42). -/
def translate (s : State) (c : Cid) (p : Partition) (va : Word) : Except WalkFail (Word × Nat) :=
  match (s.coreOf c).tlb.find? (·.hit p.asid va) with
  | some e => .ok (e.leaf, e.level.toNat)
  | none =>
    match s.tlb2.find? (fun x => x.1 = cidDie c && x.2.hit p.asid va) with
    | some e => .ok (e.2.leaf, e.2.level.toNat)
    | none => walkFrom s p va

/-- The doorbell window in HBM (R296). -/
def aliasBase : Nat := 0x1FFFFFFC000
def aliasQuad (phys : Nat) : Nat :=
  let n := (phys - aliasBase) / 8
  let die := n / 128
  let q := n % 128
  ((die / 4) * 16 + q / 8) * 32 + (die % 4) * 8 + q % 8

/-- The byte offsets of the special words (R85). -/
def doorbellOff : Nat := 0x1FFFF8
def watchdogOff : Nat := 0x1FFFF0

/-- What an access of `n` bytes at local offset `off` of logical (y, x), on physical core `c`, covers of the special
words. -/
def localSpecial (c : Cid) (ly : BitVec 7) (lx : BitVec 6) (off n : Nat) : Special :=
  if doorbellOff < off + n then .doorbell (cidQuad c) false
  else if ly = 0 ∧ lx = 0 ∧ watchdogOff < off + n then .watchdog
  else .none

/-- The access may reach the special word (R84, R176): a plain load, or an STF; in the HBM window only an STF, and at a peer's window
also a posted store, which the peer discards (R296). Engine
reads see 0 there (R85); engine writes are checked before they start. -/
def specialOk (sp : Special) (ac : Access) : Bool :=
  match sp with
  | .none => true
  | .doorbell _ true => ac = .stf
  | .peerDoorbell => ac = .stf || ac = .store
  | _ => ac = .stf || ac = .load || ac = .engineRead || ac = .engineWrite || ac = .unitRead

/-- Where a translated device address lies. -/
def devicePlace (leaf : Word) (level : Nat) (va : Word) : Place :=
  let pb := pageBits level (pteC16 leaf)
  let pa := ptePA leaf / 2 ^ pb * 2 ^ pb + va.toNat % 2 ^ pb
  let phys := pa % 2 ^ 41
  match pteTgt leaf with
  | 0 => ⟨.hbm, hbmKey phys, phys, pteKey leaf, if aliasBase ≤ phys then .doorbell (aliasQuad phys) true else .none⟩
  | 1 =>
    let m := BitVec.ofNat 6 (pa / 2 ^ 42)
    ⟨.peer m, peerKey m phys, phys, pteKey leaf, if aliasBase ≤ phys then .peerDoorbell else .none⟩
  | _ => ⟨.host, hostKey pa, pa, 0, .none⟩

/-- The place that `n` bytes at `a` reach in the agent's partition, alignment and permissions apart, with the leaf that translates
them; or the cause: bounds, page fault or walk error. -/
def placeOf (s : State) (ag : Agent) (ac : Access) (n : Nat) (a : Word) : Except Cause (Place × Option Word) :=
  let p := s.partOf ag.part
  match addrSpace a with
  | 1 =>
    let die := bits a 31 28
    let off := bits a 27 0
    if sbmAllowed p die off && !s.dieOff die then .ok (⟨.sbm, sbmKey die off, off, 0, .none⟩, none) else .error (causeOf 0x06 a)
  | 2 =>
    match translate s (tidCore ag.tid) p a with
    | .error .error => .error ⟨0x0A, 1, a⟩
    | .error .page => .error (causeOf ac.pageFault a)
    | .ok (leaf, level) => .ok (devicePlace leaf level a, some leaf)
  | _ =>
    match resolveLocal p ag a with
    | none => .error (causeOf 0x06 a)
    | some (y, x) =>
      let off := bits a 20 0
      let sp := localSpecial (p.physical y x) y x off n
      match p.target y x with
      | .core c => .ok (⟨.loc c, locKey c off, off, 0, sp⟩, none)
      | .shadow c => .ok (⟨.shadow c, shadowKey c off, off, 0, sp⟩, none)

/-- The place is a word of a doorbell alias in HBM (R296). -/
def Place.inAlias (pl : Place) : Bool :=
  match pl.special with
  | .doorbell _ true | .peerDoorbell => true
  | _ => false

/-- The access is one that the place never takes, whatever its alignment: an invalid address (R44, R84, R176, R296). An engine takes a
page fault at the alias instead (R85). -/
def Place.refuses (pl : Place) (ac : Access) : Bool :=
  (ac.needsFe && pl.space = .host) || (!specialOk pl.special ac && !(ac.engine && pl.inAlias))

/-- The place that an aligned access of `n` bytes at `a` reaches, or the first cause that it takes: invalid address,
misaligned, bounds, page fault or walk error (R141). -/
def resolve (s : State) (ag : Agent) (ac : Access) (n : Nat) (a : Word) : Except Cause Place :=
  if !addrMbz a then .error (causeOf 0x05 a)
  else
    match placeOf s ag ac n a with
    | .error c => .error (if a.toNat % n ≠ 0 then causeOf 0x04 a else c)
    | .ok (pl, leaf) =>
      if pl.refuses ac then .error (causeOf 0x05 a)
      else if a.toNat % n ≠ 0 then .error (causeOf 0x04 a)
      else if !(leaf.all fun e => ptePermits e ac ag.user) || (ac.engine && pl.inAlias) then .error (causeOf ac.pageFault a)
      else if pl.cutOff s then .error (causeOf ac.pageFault a)
      else .ok pl

/-- The address of the word that holds the error, when the place holds one within `n` bytes (R140). -/
def dataError (s : State) (pl : Place) (a : Word) (n : Nat) : Option Cause :=
  (s.poisonIn pl.key n).map fun p =>
    causeOf 0x0A (BitVec.ofNat 64 ((a.toNat + p - pl.key) / 8 * 8))

/-- The logarithm of the size of the page in which an address lies, for the fault report of 10_traps.md R166: that of its translation. DESIGN
CHOICE (log entry 89): 4 KiB for an address that has none. -/
def State.pageLog (s : State) (a : Word) : Nat :=
  if addrSpace a = 2 then
    match translate s s.th.cid s.part a with
    | .ok (leaf, level) => pageBits level (pteC16 leaf)
    | .error _ => 12
  else 12
/-- Two addresses of the current thread lie in one page. -/
def State.samePage (s : State) (a b : Word) : Bool :=
  let x := absolute s.part s.th.agent a
  let y := absolute s.part s.th.agent b
  let n := Nat.max (s.pageLog x) (s.pageLog y)
  x.toNat / 2 ^ n = y.toNat / 2 ^ n

/-- Byte `off` of the place's memory is of a special word (05_work.md R85; 10_traps.md R176). -/
def specialAt (p : Partition) (sp : Space) (off : Nat) : Bool :=
  match sp with
  | .loc c => doorbellOff ≤ off || (watchdogOff ≤ off && p.target 0 0 = .core c)
  | .shadow c => doorbellOff ≤ off || (watchdogOff ≤ off && p.target 0 0 = .shadow c)
  | _ => false

/-- Word `i` from the place on, as a unit reads it. -/
def unitWord (s : State) (p : Partition) (pl : Place) (i : Nat) : Word :=
  if specialAt p pl.space (pl.off + 8 * i) then 0 else s.wordAt (pl.up (8 * i))

/-- The first `n` words from the place on. -/
def unitWords (s : State) (p : Partition) (pl : Place) (n : Nat) : List Word := (List.range n).map (unitWord s p pl)

/-- A local offset written into an offset register reads as the agent's own memory. -/
def ownAddr (off : Nat) : Word := BitVec.ofNat 64 (3 * 2 ^ 62 + off)

end Sys2Proof.Machine
end

