-- ==== Sys2Proof/Machine/Record.lean ====
section
/-! DEFINITION. What the part writes down of its own accord: the trace ring of a local memory port (06_ordering.md R102) and
the receive log of a core (10_traps.md R174). -/
namespace Sys2Proof.Machine

/-- Word 0 and word 1 of a trace entry (R102). -/
def traceEntry (seq : Half) (src : Tid) (kind : BitVec 4) (size : Nat) (off : Nat) : Word × Word :=
  (BitVec.ofNat 64 (seq.toNat * 2 ^ 32 + (cidPY (tidCore src)).toNat * 2 ^ 13 + (cidPX (tidCore src)).toNat * 2 ^ 7
      + (tidSlot src).toNat * 2 ^ 4 + kind.toNat),
   BitVec.ofNat 64 (size * 2 ^ 21 + off))

/-- Kinds that are logged by 64-byte granule, with the size code 3 (R102). -/
def kindByGranule (k : BitVec 4) : Bool := (6 ≤ k && k ≤ 12) || k = 14
/-- Kinds whose source slot is written as 0 (R102). -/
def kindNoSlot (k : BitVec 4) : Bool := k = 7 || k = 8 || k = 11 || k = 12 || k = 14

/-- One entry in the ring; the 65th overwrites the oldest. -/
def Trace.push (t : Trace) (src : Tid) (kind : BitVec 4) (size off : Nat) : Trace :=
  if t.enabled then
    { t with seq := t.seq + 1,
             entries := (traceEntry t.seq (if kindNoSlot kind then mkTid (tidCore src) 0 else src) kind size off :: t.entries).take 64 }
  else t

/-- An entry for each of `n` granules from `off`. -/
def Trace.pushGranules (t : Trace) (src : Tid) (kind : BitVec 4) (off : Nat) : Nat → Trace
  | 0 => t
  | n + 1 => (t.push src kind 3 off).pushGranules src kind (off + 64) n

/-- The size code of the M format for `n` bytes. -/
def sizeCode (n : Nat) : Nat := if n = 1 then 0 else if n = 2 then 1 else if n = 4 then 2 else 3

/-- The write of `n` bytes at local offset `off` by `src`, logged at core `c`'s port. -/
def State.traced (s : State) (c : Cid) (src : Tid) (kind : BitVec 4) (off n : Nat) : State :=
  if (s.coreOf c).trace.enabled then
    let log (t : Trace) : Trace :=
      if kindByGranule kind then t.pushGranules src kind (off / 64 * 64) ((off + n + 63) / 64 - off / 64)
      else t.push src kind (sizeCode n) off
    s.updCore c fun x => { x with trace := log x.trace }
  else s

/-- The local port that a place belongs to: a shadow slice has none (02_module.md R19). -/
def Place.port (pl : Place) : Option (Cid × Nat) :=
  match pl.space with
  | .loc c => some (c, pl.off)
  | _ => none

/-- The write of `n` bytes at a place by `src`, logged at the place's port. -/
def State.tracedAt (s : State) (pl : Place) (src : Tid) (kind : BitVec 4) (n : Nat) : State :=
  match pl.port with
  | some (c, off) => s.traced c src kind off n
  | none => s

/-- The source handle that a log record carries for a thread. -/
def State.handleOf (s : State) (t : Tid) : Word := (s.thread t).handle

/-- The four words of a log record (R174). -/
def logRecord (seq : Half) (kind : BitVec 4) (slot : BitVec 3) (cyc src value : Word) : List Word :=
  [BitVec.ofNat 64 (seq.toNat * 2 ^ 32 + kind.toNat * 2 ^ 28 + slot.toNat * 2 ^ 25), cyc, src, value]

/-- Some words in consecutive words of memory from byte `k` on, and from a place on. -/
def writeWords (m : Mem) (k : Nat) : List Word → Mem
  | [] => m
  | x :: xs => writeWords (m.writeN k 8 x.toNat) (k + 8) xs
def State.putWords (s : State) (pl : Place) : List Word → State
  | [] => s
  | x :: xs => (s.putBytes pl 8 x.toNat).putWords (pl.up 8) xs

/-- One 32-byte record into the log region that the host named; when the region is full, logging stops and the overflow bit
is set (R174). The region is reached through the translation of the partition that owns the core (log entry 13). -/
def State.logWords (s : State) (c : Cid) (mk : RecvLog → List Word) : State :=
  let x := s.coreOf c
  if x.log.enabled then
    let at_ := x.log.region + BitVec.ofNat 64 (32 * x.log.records.toNat)
    let p := x.owner.getD 0
    let ag : Agent := ⟨mkTid c 0, p, 0, 0, false⟩
    match resolve s ag .engineWrite 32 at_ with
    | .ok pl =>
      if 32 * (x.log.records.toNat + 1) ≤ x.log.size.toNat then
        ((s.updCore c fun y => { y with log := { y.log with records := y.log.records + 1 } }).putWords pl (mk x.log)).tracedAt pl (mkTid c 0) 14 32
      else s.updCore c fun y => { y with log := { y.log with enabled := false, overflow := true } }
    | .error _ => s.updCore c fun y => { y with log := { y.log with enabled := false, overflow := true } }
  else s

/-- A record of an arrival at slot `slot` of core `c`. -/
def State.logArrival (s : State) (c : Cid) (kind : BitVec 4) (slot : BitVec 3) (src value : Word) : State :=
  s.logWords c fun l => logRecord l.records kind slot l.cyc src value

/-- Continuation records, 32 bytes each, with the words given. -/
def State.logContinuation (s : State) (c : Cid) : List Word → State
  | a :: b :: x :: y :: rest => (s.logWords c fun _ => [a, b, x, y]).logContinuation c rest
  | [] => s
  | xs => s.logWords c fun _ => (xs ++ [0, 0, 0]).take 4

/-! ### Values from outside a core, and replay mode (R174, R175) -/

/-- Core `c` is in replay mode: logged arrivals are still to be delivered to it. -/
def State.replays (s : State) (c : Cid) : Bool := (s.coreOf c).log.replay != []

/-- The first logged arrival of the kind at the slot, as its words, and the others. -/
def takeRecord (kind : BitVec 4) (slot : BitVec 3) : List (Word × List Word) → Option (List Word × List (Word × List Word))
  | [] => none
  | x :: xs =>
    if (x.2.headD 0).extractLsb' 28 4 = kind && (x.2.headD 0).extractLsb' 25 3 = slot then some (x.2, xs)
    else (takeRecord kind slot xs).map fun y => (y.1, x :: y.2)

/-- The source that a value from byte `key` names: the peer module that holds it, or all ones (R174). -/
def sourceAt (key : Nat) : Word :=
  if 2 ^ 54 ≤ key && key < 2 ^ 57 then BitVec.ofNat 64 (2 ^ 63 + (key - 2 ^ 54) / 2 ^ 41) else allOnes

/-- Words that reach a slot from outside its core: they are logged, the first as VALUE and several in continuation records too; in replay
mode the next logged ones of the kind take their place (21 R358; log entry 22). -/
def State.incomingWords (s : State) (c : Cid) (slot : BitVec 3) (kind : BitVec 4) (src : Word) (xs : List Word) : List Word × State :=
  match takeRecord kind slot (s.coreOf c).log.replay with
  | some (ws, rest) =>
    (if xs.length ≤ 1 then [ws.getD 3 0] else (ws.drop 4).take xs.length,
     s.updCore c fun x => { x with log := { x.log with replay := rest } })
  | none => (xs, (s.logArrival c kind slot src (xs.headD 0)).logContinuation c (if xs.length ≤ 1 then [] else xs))

/-- A value that reaches the current thread from outside its core, and one that names its source. -/
def State.incomingFrom (s : State) (kind : BitVec 4) (src : Word) (x : Word) : Word × State :=
  let (ws, s1) := s.incomingWords s.th.cid s.th.slot kind src [x]
  (ws.headD 0, s1)
def State.incoming (s : State) (kind : BitVec 4) (x : Word) : Word × State := s.incomingFrom kind allOnes x

/-- A value from a unit or shared register written into w[d] (kind 12). -/
def State.unitWrite (s : State) (d : Reg) (x : Word) : State :=
  let (y, s1) := s.incoming 12 x
  s1.wr d y

end Sys2Proof.Machine
end

