-- ==== Sys2Proof/Machine/Rewind.lean ====
section
/-! DEFINITION. The rewind stack: where it lies and how records are pushed on it (15_time_axes.md R244 to R246), and how
records are freed from its bottom (R248). -/
namespace Sys2Proof.Machine

/-- Byte `off` of the memory that a map target names. -/
def MapTarget.place (m : MapTarget) (off : Nat) : Place :=
  match m with
  | .core c => ⟨.loc c, locKey c off, off, 0, .none⟩
  | .shadow c => ⟨.shadow c, shadowKey c off, off, 0, .none⟩

/-- Byte `off` of the memory of the thread's own logical core (10_traps.md R169: a displaced thread keeps its home). -/
def State.ownPlace (s : State) (t : Thread) (off : Nat) : Place := ((s.partOf t.part).target t.ident.ly t.ident.lx).place off
def State.ownKey (s : State) (t : Thread) (off : Nat) : Nat := (s.ownPlace t off).key

/-- The offset that an offset register holds (R244). -/
def offReg (x : Word) : Nat := bits x 20 5 * 32

def Rewind.base (r : Rewind) : Nat := offReg r.rsbase
def Rewind.limit (r : Rewind) : Nat := offReg r.rslim

/-- Records that the stack has room for (R244): none when RSLIM does not exceed RSBASE, or the region covers a special
word (05_work.md R85). -/
def Rewind.capacity (r : Rewind) : Nat :=
  if r.limit ≤ watchdogOff then (r.limit - r.base) / 32 else 0

def Rewind.free (r : Rewind) : Nat := r.capacity - r.count

/-- The offset `n` records above `off`, around the region. -/
def Rewind.up (r : Rewind) (off n : Nat) : Nat :=
  if r.capacity = 0 then off else r.base + (off - r.base + 32 * n) % (32 * r.capacity)

/-- The offset `n` records below `off`, around the region. -/
def Rewind.down (r : Rewind) (off n : Nat) : Nat :=
  if r.capacity = 0 then off
  else r.base + (off - r.base + (32 * r.capacity - 32 * n % (32 * r.capacity))) % (32 * r.capacity)

/-- How many records lie from the bottom up to `off`. -/
def Rewind.index (r : Rewind) (off : Nat) : Nat :=
  if r.capacity = 0 then 0
  else (off + 32 * r.capacity - r.bottom) % (32 * r.capacity) / 32

/-- The next free record's offset. -/
def Rewind.top (r : Rewind) : Nat := offReg r.rstk

/-- Word 1 of a record (R245). -/
def recordWord (addr : Word) (rk opk : Nat) (fev oldfe : Bool) : Word :=
  BitVec.ofNat 64 (bits addr 63 62 * 2 ^ 62 + rk * 2 ^ 58 + opk * 2 ^ 52 + (if fev then 2 ^ 49 else 0)
    + (if oldfe then 2 ^ 48 else 0) + bits addr 47 0)

/-- The address that a record holds, bits 61:48 taken as zero (R245). -/
def recordAddr (w1 : Word) : Word := BitVec.ofNat 64 (bits w1 63 62 * 2 ^ 62 + bits w1 47 0)
def recordKind (w1 : Word) : Nat := bits w1 61 58
def recordOpk (w1 : Word) : Nat := bits w1 57 52

/-- One 32-byte record written at offset `off` of the thread's stack. -/
def State.writeRecord (s : State) (t : Thread) (off : Nat) (ws : List Word) : State :=
  ({ s with mem := writeWords s.mem (s.ownKey t off) ws } : State).tracedAt (s.ownPlace t off) t.tid 9 32

/-- The current thread's stack with `n` records more on it. -/
def Rewind.advance (r : Rewind) (n : Nat) : Rewind :=
  { r with rstk := BitVec.ofNat 64 (r.up r.top n), count := r.count + n,
           bottom := if r.count = 0 then r.top else r.bottom }

/-- One record pushed on the current thread's stack. -/
def State.pushWords (s : State) (ws : List Word) : State :=
  let r := s.th.rw
  (s.writeRecord s.th r.top ws).mapTh fun t =>
    { t with rw := t.rw.advance 1, ax := { t.ax with pushno := t.ax.pushno + 1 } }

/-- A record with VT := LVT (R245, R246). -/
def State.pushRecord (s : State) (addr : Word) (rk opk : Nat) (fev oldfe : Bool) (p0 p1 : Word) : State :=
  s.pushWords [s.th.ax.lvt, recordWord addr rk opk fev oldfe, p0, p1]

/-- The registers of a vector in order. -/
def wordsOf (w : Vector Word 16) : List Word := w.toList

/-- A checkpoint of five records with VT := LVT, the registers given, and the pc to resume at (R245, R246). -/
def State.pushCheckpoint (s : State) (regs : Vector Word 16) (pc : Word) : State :=
  let ws := 0 :: (wordsOf regs).drop 1
  let prev := match s.th.rw.newest with
    | some n => BitVec.ofNat 64 n
    | none => allOnes
  let tstat := s.th.tstat
  let s1 := (((s.pushWords (ws.take 4)).pushWords ((ws.drop 4).take 4)).pushWords ((ws.drop 8).take 4)).pushWords
    ((ws.drop 12).take 4)
  let hdr := s1.th.rw.top
  (s1.pushRecord pc 5 0 false false tstat prev).mapTh fun t => { t with rw := { t.rw with
    newest := some hdr, marks := putBy (·.1 == hdr) (hdr, t.ax.pushno) t.rw.marks } }

/-- The thread logs its stores and effects (R246, 16_boosted_tasks.md R268): SPEC = 1, SP = 0 and UNW = 0. -/
def Thread.logs (t : Thread) : Bool := t.st tSPEC && !t.st tSP && !t.st tUNW
/-- The thread pushes records at all. -/
def Thread.pushes (t : Thread) : Bool := !t.st tSP && !t.st tUNW

/-- The four words of the record at `off` of a thread's stack. -/
def State.recordAt (s : State) (t : Thread) (off : Nat) : Word × Word × Word × Word :=
  let k := s.ownKey t off
  (s.mem.word k, s.mem.word (k + 8), s.mem.word (k + 16), s.mem.word (k + 24))

/-- The newest checkpoint header, from `hdr` down the chain, whose VT the horizon has passed (R248). -/
def findPassed (s : State) (t : Thread) (hzn : Word) : Nat → Option Nat → Option Nat
  | 0, _ => none
  | _, none => none
  | fuel + 1, some h =>
    let (vt, _, _, p1) := s.recordAt t h
    if vt < hzn then some h
    else if p1 = allOnes || t.rw.index p1.toNat ≥ t.rw.index h then none
    else findPassed s t hzn fuel (some p1.toNat)

/-- Every record below the newest checkpoint that the horizon has passed is freed (R248). -/
def State.freeRecords (s : State) (tid : Tid) (hzn : Word) : State :=
  let t := s.thread tid
  match findPassed s t hzn t.rw.count t.rw.newest with
  | none => s
  | some h =>
    let first := t.rw.down h 4
    s.putThread { t with rw := { t.rw with bottom := first, count := t.rw.count - t.rw.index first } }

/-- The stack emptied, its top kept (R232, R244). -/
def Rewind.emptied (r : Rewind) : Rewind := { r with count := 0, bottom := r.top, newest := none, marks := [] }

end Sys2Proof.Machine
end

