-- ==== Sys2Proof/Machine/Ops.lean ====
section
/-! DEFINITION. The operations that the meanings share: advancing past an instruction, pending results and lookahead
(01_tutorial.md R10; 04_threads.md R57), taking a trap and returning from one (10_traps.md R160 to R166; 04_threads.md R62,
R70, R71), rollback vectoring (15_time_axes.md R243), and the plan of a meaning. -/
namespace Sys2Proof.Machine

/-! ### RPTST (04_threads.md R59) -/

def rptActive (x : Word) : Bool := bit x 63
def rptPass (x : Word) : Nat := bits x 39 32
def rptCntM1 (x : Word) : Nat := bits x 31 24
def rptPos (x : Word) : Nat := bits x 23 20
def rptLenM1 (x : Word) : Nat := bits x 19 16

/-- The thread past the instruction at its pc: in a frame, the frame's position moves on, and after the last pass the frame
ends at the following instruction (01_tutorial.md R11); otherwise pc := pc + 4 (08_encoding.md R126). -/
def Thread.step4 (t : Thread) : Thread :=
  if t.pipe.inFrame then
    let x := t.trap.rptst
    if rptPos x < rptLenM1 x then
      { t with pc := t.pc + 4, trap := { t.trap with rptst := setBits x 23 20 (rptPos x + 1) } }
    else if rptPass x < rptCntM1 x then
      { t with pc := t.pc - BitVec.ofNat 64 (4 * rptLenM1 x),
               trap := { t.trap with rptst := setBits (setBits x 39 32 (rptPass x + 1)) 23 20 0 } }
    else
      { t with pc := t.pc + 4, trap := { t.trap with rptst := setBit x 63 false },
               pipe := { t.pipe with inFrame := false, frame := [] } }
  else { t with pc := t.pc + 4 }

/-- One more instruction executed (ICNT, 08_encoding.md R138). -/
def Thread.counted (t : Thread) : Thread := { t with ident := { t.ident with icnt := t.ident.icnt + 1 } }

/-- The current thread past its instruction, which counts in ICNT. -/
def State.advance (s : State) : State := s.mapTh (·.step4.counted)

/-- The current thread at `pc` after an instruction that transfers control, which counts in ICNT. -/
def State.jump (s : State) (pc : Word) : State := s.mapTh fun t => { t.counted with pc := pc }

/-! ### Pending results (R10, R57) -/

/-- Scalar register r, and vector register r, as pending registers (08_encoding.md R140). -/
def wReg (r : Reg) : BitVec 5 := 0#1 ++ r
def vReg (r : Reg) : BitVec 5 := 1#1 ++ r

/-- Writes a result into a pending register. -/
def Thread.wrAny (t : Thread) (r : BitVec 5) (x : Vec) : Thread :=
  if bit r 4 then t.wrv (r.extractLsb' 0 4) x else t.wr (r.extractLsb' 0 4) (x.setWidth 64)

/-- Each pending window loses one instruction, and a window that is over and whose value is written is forgotten. -/
def Pending.tick (p : Pending) : Pending := { p with left := p.left - 1, ran := p.ran + 1 }
/-- A window instruction of it counts as not executed (04_threads.md R71). -/
def Pending.untick (p : Pending) : Pending := if p.ran = 0 then p else { p with left := p.left + 1, ran := p.ran - 1 }
def Pending.over (p : Pending) : Bool := p.left = 0 && p.st = .arrived
def Thread.tick (t : Thread) : Thread :=
  { t with pipe := { t.pipe with pend := (t.pipe.pend.map Pending.tick).filter (!·.over) } }

/-- The value is in hand but not written. -/
def PendState.inHand : PendState → Bool
  | .value _ => true
  | _ => false
/-- The wait can be withdrawn by a trap or an event (04_threads.md R71). -/
def PendState.withdrawable : PendState → Bool
  | .full _ _ | .message _ | .quiet => true
  | _ => false
/-- The result is neither written nor in hand, and nothing withdraws it. -/
def PendState.mustWait : PendState → Bool
  | .grant _ | .job _ | .barrier _ _ | .collective _ | .unit .. | .vector .. => true
  | _ => false
/-- Something of the instruction is still to be done whatever its destination: a unit's operation, or an arrival on its way. -/
def PendState.errand : PendState → Bool
  | .unit .. | .barrier _ false => true
  | _ => false
/-- The entry stands for a result that is not written, or for an errand; with w0 as its destination nothing else is pending (R57). -/
def Pending.unwritten (p : Pending) : Bool := p.st != .arrived && (p.reg ≠ 0 || p.st.errand)
/-- A trap or an event waits for the result: one that nothing withdraws, and a unit's operation until it is done, whatever its
destination (10_traps.md R160; 22 R364). -/
def Pending.holdsTrap (p : Pending) : Bool := p.st.mustWait && (p.reg ≠ 0 || (match p.st with
  | .unit .. => true
  | _ => false))
/-- A result of the thread keeps a trap or an event from being taken. -/
def Thread.mustWait (t : Thread) : Bool := t.pipe.pend.any Pending.holdsTrap

/-- The pending register for which the thread may not issue: its window is exhausted and its value is not written; w0 is never
pending (R57). -/
def Thread.exhausted (t : Thread) : Option Pending := t.pipe.pend.find? (fun p => p.left = 0 && p.st != .arrived && p.reg ≠ 0)

/-- A result of a long-latency instruction: with la = 0, or into w0, it is written before the next issue; otherwise it stays
pending, its value in hand, until it is written (R57, R132). -/
def Thread.result (t : Thread) (r : BitVec 5) (la : Reg) (pc : Word) (x : Vec) : Thread :=
  if la = 0 ∨ r = 0 then t.wrAny r x
  else { t with pipe := { t.pipe with pend := t.pipe.pend ++ [⟨r, la.toNat, 0, pc, .value x, t.ident.icnt⟩] } }

/-- A scalar result under lookahead. -/
def State.result (s : State) (d la : Reg) (x : Word) : State :=
  s.mapTh fun t => t.result (wReg d) la t.pc (x.setWidth 512)

/-- An entry of the pending list for a register, and for w`d`. -/
def State.enterReg (s : State) (r : BitVec 5) (la : Reg) (st : PendState) : State :=
  s.mapTh fun t => { t with pipe := { t.pipe with pend := t.pipe.pend ++ [⟨r, la.toNat, 0, t.pc, st, t.ident.icnt⟩] } }
def State.enter (s : State) (d la : Reg) (st : PendState) : State := s.enterReg (wReg d) la st
/-- A result that waits; a destination of w0 leaves nothing pending (R57), but for an errand. -/
def State.wait (s : State) (d la : Reg) (st : PendState) : State := if d = 0 ∧ st.errand = false then s else s.enter d la st
/-- A scalar result that comes at once and is written, its window still standing (15_time_axes.md R240). -/
def State.resultNow (s : State) (d la : Reg) (x : Word) : State := if la = 0 then s.wr d x else (s.wr d x).enter d la .arrived

/-- The first result for register `r` that is not written is marked as written. -/
def arriveIn (r : BitVec 5) : List Pending → List Pending
  | [] => []
  | p :: ps => if p.reg = r && p.st != .arrived then { p with st := .arrived } :: ps else p :: arriveIn r ps

/-- The value of the waiting result in register `r` arrives and is written. -/
def Thread.arrive (t : Thread) (r : BitVec 5) (x : Vec) : Thread :=
  match t.pipe.pend.find? (fun p => p.reg = r && p.st != .arrived) with
  | none => t
  | some _ =>
    { t.wrAny r x with pipe := { t.pipe with pend := (arriveIn r t.pipe.pend).filter (!·.over) } }

def State.arrive (s : State) (tid : Tid) (r : Reg) (x : Word) : State :=
  s.updThread tid (·.arrive (wReg r) (x.setWidth 512))

/-- Every waiting result of the thread that `p` picks receives `x`. -/
def Thread.arriveAll (t : Thread) (p : PendState → Bool) (x : Vec) : Thread :=
  let t1 := t.pipe.pend.foldl (fun t q => if p q.st then t.wrAny q.reg x else t) t
  { t1 with pipe := { t1.pipe with
    pend := (t.pipe.pend.map fun q => if p q.st then { q with st := .arrived } else q).filter (!·.over) } }

/-- Every waiting result that `p` picks of the threads of a list receives `x`, a value from a unit (10_traps.md R174, kind 12). -/
def answerAll (p : PendState → Bool) (x : Word) : List Thread → State → State
  | [], s => s
  | t :: ts, s =>
    answerAll p x ts ((t.pipe.pend.filter fun q => p q.st).foldl (fun s _ => s.logArrival t.cid 12 t.slot allOnes x)
      (s.updThread t.tid (·.arriveAll p (x.setWidth 512))))

/-- Every value in hand is written (R160 step 1). -/
def Thread.writeBack (t : Thread) : Thread :=
  t.pipe.pend.foldl (fun t p => match p.st with
    | .value x => t.arrive p.reg x
    | _ => t) t

/-! ### Leaving a gang (04_threads.md R62) -/

/-- The leader of the thread's gang. -/
def Thread.leader (t : Thread) : Option Tid := t.gang.map (·.1)

/-- The members of the gang that `l` leads. -/
def State.gangOf (s : State) (l : Tid) : List Thread := s.threads.filter (fun t => t.active && t.leader == some l)
/-- The thread, with the other members of its gang. -/
def State.members (s : State) (t : Thread) : List Thread :=
  match t.leader with
  | none => [t]
  | some l => s.gangOf l

/-- Every member leaves the gang; with `disband`, GDIS is set in each (R62; UNGANG leaves it clear, R60). -/
def Thread.ungang (t : Thread) (disband : Bool) : Thread :=
  let t := { t with gang := none, ident := { t.ident with gidx := 0 } }
  if disband then t.setSt tGDIS true else t

def State.breakGang (s : State) (disband : Bool) : State :=
  match s.th.leader with
  | none => s
  | some l =>
    let f (t : Thread) : Thread := if t.leader == some l then t.ungang disband else t
    { s with th := f s.th, others := s.others.map f }

/-! ### Withdrawing waits (R71) -/

/-- The instruction that a held wait re-issues, asleep until TRET (R71). -/
def heldWait (p : Pending) (i : Instr) : HeldAccess :=
  ⟨i, 0, 0, p.left, true, 0, 0, 0, 0, p.seq, .asleep, p.pc, match p.st with
    | .message copy => some copy
    | _ => none⟩
/-- A held faulted access: the instruction, its address and data, the remaining window, the cause, and its place in program order. -/
def heldFault (i : Instr) (addr data : Word) (left : Nat) (c : Cause) (seq : Word) : HeldAccess :=
  ⟨i, addr, data, left, false, c.code, c.detail, c.tval, 0, seq, .live, 0, none⟩

/-- The result register of a held access. -/
def HeldAccess.reg (h : HeldAccess) : Option (BitVec 5) :=
  match h.instr with
  | .ld d .. | .lds d .. | .ldf d .. | .ldfe d .. | .hold d .. | .recvv d .. | .quies d .. | .pfxins d .. | .pfxpin d .. | .pfxunpin d ..
  | .kvapp d .. =>
    some (wReg d)
  | .vld d .. | .vlds d .. | .vgat d .. => some (vReg d)
  | _ => none

/-- A held access in its place in program order. -/
def insertHeld (h : HeldAccess) : List HeldAccess → List HeldAccess
  | [] => [h]
  | x :: xs => if h.seq < x.seq then h :: x :: xs else x :: insertHeld h xs
def Thread.hold (t : Thread) (h : HeldAccess) : Thread := { t with pipe := { t.pipe with held := insertHeld h t.pipe.held } }

/-- The waiting instruction of a pending result, for its re-issue: LDF and LDFE with the address resolved again from the
waiter, RECVV and QUIES. -/
def waitInstr (p : Pending) : Instr :=
  let d : Reg := p.reg.extractLsb' 0 4
  match p.st with
  | .full _ true => .ldfe d 0 0 0
  | .full _ false => .ldf d 0 0 0
  | .message _ => .recvv d 0
  | _ => .quies d 0

/-- The address of a waiting request of the thread for register `r`. -/
def State.waiterAddr (s : State) (tid : Tid) (r : Reg) : Word :=
  ((s.waiters.find? (fun w => w.owner == some tid && w.reg = r && (w.op = .ldf || w.op = .ldfe))).map (·.addr)).getD 0

/-- Requests of a thread that a trap or event withdraws: LDF, LDFE, STEF, a waiting post, and the access of an ABOP, a DEFER or a ROLL
that executes again (R70, R71, R374). An LDF or LDFE into w0
leaves no destination pending, so that it stays at its memory (21 R351). -/
def Waiter.withdrawable (w : Waiter) : Bool :=
  match w.op with
  | .ldf | .ldfe => w.reg ≠ 0
  | .stef | .post _ _ | .count _ | .undo _ _ => true
  | .effect _ own _ => own
  | _ => false
def State.withdrawRequests (s : State) (tid : Tid) : State :=
  { s with waiters := s.waiters.filter (fun w => !(w.owner == some tid && w.withdrawable)) }

/-- The thread before each wait that no window instruction has followed: it counts as not executed, and so gives back its count in ICNT and
the place that it took in the windows before it (R71; 08_encoding.md R138). The pc is that of the first. -/
def Thread.unissued (t : Thread) : Nat → Thread
  | 0 => t
  | n + 1 => match t.pipe.pend.find? (fun p => p.st.withdrawable && p.ran = 0) with
    | none => t
    | some p => Thread.unissued { t with
        pc := p.pc
        ident := { t.ident with icnt := t.ident.icnt - 1 }
        pipe := { t.pipe with pend := (t.pipe.pend.erase p).map Pending.untick } } n

/-- The current thread with its withdrawable waits withdrawn: one that no window instruction has followed counts as not
executed, and the thread resumes at it; any other is held, or with `discard` forgotten (R71). Faulted loads leave the
pending list, their accesses being held already (R166), and every held access sleeps until the next TRET. DESIGN CHOICE (log entry
64): what is left of the window of an ordinary result, which is written by now, is dropped, since the spec speaks of the windows of held
waits and faulted loads only. -/
def State.withdrawWaits (s : State) (discard : Bool) : State :=
  let t := s.th.unissued s.th.pipe.pend.length
  let kept := t.pipe.pend.filter (fun p => p.st.withdrawable)
  let mk (p : Pending) : HeldAccess :=
    { heldWait p (waitInstr p) with addr := s.waiterAddr t.tid (p.reg.extractLsb' 0 4) }
  let faults := t.pipe.held.map (fun h =>
      match t.pipe.pend.find? (fun p => p.st = .faulted && some p.reg == h.reg) with
      | some p => { h with left := p.left, phase := .asleep }
      | none => { h with phase := .asleep })
  let heldNow := if discard then t.pipe.held else (kept.map mk).foldl (fun hs h => insertHeld h hs) faults
  (s.withdrawRequests t.tid).mapTh fun _ => { t with
    pipe := { t.pipe with
      park := none
      turn := none
      record := none
      held := heldNow
      pend := t.pipe.pend.filter (fun p => !p.st.withdrawable && p.st != .faulted && p.st != .arrived) } }

/-! ### Traps (10_traps.md R160 to R164) -/

/-- What core `c` freezes at a gang stop: MSENT, MRECV and ICNT of slots 0 to 7 (R173). -/
def State.snapshot (s : State) (c : Core) : List Word :=
  c.msent :: c.mrecv :: (List.range 8).map fun k => (s.thread (mkTid c.cid (BitVec.ofNat 3 k))).ident.icnt

/-- The threads of partition `p` halt at a gang stop (R173): their results in hand are written, and its cores freeze their counters.
DESIGN CHOICE (log entry 69): all halt in one step, a skew of 0 of the 64 and 192 cycles that the spec allows (02_module.md R27). -/
def State.haltThreads (s : State) (p : BitVec 6) : State :=
  let s1 := s.eachCore fun c => if c.owner = some p then { c with frozen := some (s.snapshot c) } else c
  let f (t : Thread) : Thread := if t.active && t.part = p then t.writeBack else t
  { s1 with th := f s1.th, others := s1.others.map f }

/-- A partition that was running is HALTED, its watchdog stopped (R173, R176). -/
def Partition.halted (p : Partition) (run : Nat) : Partition := { p with state := 1, wdRun := run }

/-- The layout of a job's result (11_engines.md R184). -/
def Job.result (j : Job) (status : Byte) : Word :=
  BitVec.ofNat 64 (j.done * 2 ^ 32 + j.skip.toNat * 2 ^ 16 + status.toNat)

/-- The jobs of a partition's cores are cancelled when it is lost (11_engines.md R186). -/
def Core.cancelJobs (c : Core) : Core :=
  { c with results := c.jobs.foldl (fun r j => putBy (·.1 == j.num) (j.num, j.result 0x01) r) c.results
           jobs := [] }

/-- The copy faults of a thread that it has not taken are withdrawn (11_engines.md R186). -/
def Thread.dropCopyFaults (t : Thread) : Thread :=
  { t with pipe := { t.pipe with async := t.pipe.async.filter (·.code ≠ 0x0B) } }

/-- The threads that wait at CPYW for a job of core `c` receive its result as CANCELLED. -/
def State.answerCancelled (s : State) (c : Core) : State :=
  c.jobs.foldl (fun s j => answerAll (fun y => y = .job j.num) (j.result 0x01) (s.coreThreads c.cid) s) s

/-- The current partition enters FAILED (R163, R164): its status record is written, its jobs are cancelled, their copy faults are withdrawn
and their waits answered (11_engines.md R186), and the partition-event interrupt is raised. In one that has FAILED already nothing changes. -/
def State.failPart (s : State) (cause code : Byte) (place : BitVec 16) (val : Word) : State :=
  if s.part.state = 3 then s else
  let num := s.part.num
  let s0 := if s.part.state = 0 then s.haltThreads num else s
  let s1 := s0.eachCore fun c => if c.owner = some num then c.cancelJobs else c
  let f (t : Thread) : Thread := if t.part = num then t.dropCopyFaults else t
  let s2 := ((s0.core :: s0.cores).filter (·.owner = some num)).foldl State.answerCancelled
    { s1 with th := f s1.th, others := s1.others.map f }
  (s2.mapPart fun p => { p with state := 3, cause := cause, code := code, place := place, val := val }).interrupt s.part.iport true

/-- TCAUSE, TVAL and TEPC as a trap writes them; PRIV becomes supervisor and SP 1; pc := TVEC (R160). -/
def Thread.enter (t : Thread) (c : Cause) : Thread :=
  { (t.setPriv 1).setSt tSP true with
    pc := t.trap.tvec
    trap := { t.trap with tepc := t.pc, tcause := zx (c.detail ++ c.code), tval := c.tval }
    pipe := { t.pipe with inFrame := false, frame := [], trapDue := none } }

/-- The current thread takes the cause `c` (R160): with SP = 1 the partition fails (R163). Its gang is disbanded at this boundary
(04_threads.md R62). While a result that cannot be withdrawn is outstanding the trap is due and the thread waits; otherwise every pending result is written, waits are withdrawn and the handler is entered. -/
def State.takeTrap (s : State) (c : Cause) : State :=
  if s.th.st tSP then s.failPart 1 c.code s.th.tid c.tval
  else if s.th.mustWait then
    (s.breakGang true).mapTh fun t => { t with pipe := { t.pipe with trapDue := some c } }
  else ((s.breakGang true).mapTh Thread.writeBack |>.withdrawWaits false).mapTh (·.enter c)

/-- TRET (R161): pc := TEPC, PRIV := the base privilege, SP := 0. -/
def Thread.leave (t : Thread) : Thread :=
  { (t.setPriv (if t.base then 1 else 0)).setSt tSP false with pc := t.trap.tepc }

/-- The asynchronous cause that the thread takes at a boundary, and the thread without it (08_encoding.md R141): watchdog,
copy fault, hold timeout, matrix data error, then an interrupt with IE = 1. Nothing while SP = 1 (R160). -/
def Thread.asyncCause (t : Thread) : Option (Cause × Thread) :=
  if t.st tSP then none
  else
    let pick (code : Byte) : Option Cause := t.pipe.async.find? (·.code = code)
    match pick 0x14 <|> pick 0x0B <|> pick 0x0C <|> pick 0x13 with
    | some c => some (c, { t with pipe := { t.pipe with async := t.pipe.async.erase c } })
    | none =>
      if t.st tIE && t.pipe.irq ≠ 0 then
        (List.range 128).find? (fun n => bit t.pipe.irq n) |>.map fun n =>
          (⟨BitVec.ofNat 8 (0x80 + n), 0, 0⟩, { t with pipe := { t.pipe with irq := setBit t.pipe.irq n false } })
      else none

/-- A cause made pending in a thread. -/
def State.postCause (s : State) (tid : Tid) (c : Cause) : State :=
  s.updThread tid fun t => { t with pipe := { t.pipe with async := t.pipe.async ++ [c] } }

/-- A rollback event with target `v` made pending in a bound thread; events merge by the minimum (15_time_axes.md R242). A core in replay
mode takes its events from its log (10_traps.md R175). -/
def Thread.event (t : Thread) (v : Word) : Thread :=
  let m := match t.rw.event with
    | some e => if e < v then e else v
    | none => v
  { t with rw := { t.rw with event := some m } }
def State.raiseEvent (s : State) (tid : Tid) (v : Word) : State :=
  if s.replays (tidCore tid) then s else
  (s.updThread tid (·.event v)).logArrival (tidCore tid) 7 (tidSlot tid) allOnes v

/-- The thread's axis is bound (R231), its mode and number. -/
def Thread.bound (t : Thread) : Bool := bit t.ax.axis 63
def Thread.axisMode (t : Thread) : Nat := bits t.ax.axis 62 61
def Thread.axisNum (t : Thread) : Nat := bits t.ax.axis 13 0

/-- The pending rollback event is taken (R243): pending results are written, waits withdrawn and held waits discarded, the
gang disbanded, the frame cleared; TEPC := pc, w1 := T, pc := RBVEC. Privilege is unchanged. -/
def State.vectorEvent (s : State) (target : Word) : State :=
  let s1 := ((s.breakGang true).mapTh Thread.writeBack).withdrawWaits true
  s1.mapTh fun t =>
    { t.wr 1 target with
      pc := t.rw.rbvec
      trap := { t.trap with tepc := t.pc, rptst := setBit t.trap.rptst 63 false }
      rw := { t.rw with event := none, vectored := some target }
      pipe := { t.pipe with inFrame := false, frame := [], held := t.pipe.held.filter (!·.isWait) } }

/-- The event that the thread takes before its next issue: SP = 0 and no ROLL in progress (R242, R243). -/
def Thread.eventNext (t : Thread) : Option Word :=
  if t.st tSP || t.rw.vectored.isSome || t.rw.target.isSome then none else t.rw.event
/-- The event that the thread takes now: nothing is outstanding that must be waited for. -/
def Thread.eventDue (t : Thread) : Option Word := if t.mustWait then none else t.eventNext
/-- The thread issues nothing, because an event is to be taken first and waits for a result (08_encoding.md R141). -/
def Thread.eventWaits (t : Thread) : Bool := t.eventNext.isSome && t.mustWait

/-! ### Parking (04_threads.md R69) -/

/-- The place of the next thread to park among those that stand parked. -/
def State.nextParked (s : State) : Nat := (s.threads.map (·.pipe.parkSeq)).foldl Nat.max 0 + 1

/-- The current thread parks, or waits in issue, at its instruction, which executes again when the cause clears. -/
def State.parkOn (s : State) (p : Park) : State :=
  s.mapTh fun t => if t.pipe.park = some p then t else
    { t with pipe := { t.pipe with park := some p, parkedAt := s.cycle, parkSeq := s.nextParked } }

/-- The thread waits in issue (01_tutorial.md R9). -/
def Thread.inIssue (t : Thread) : Bool :=
  match t.pipe.park with
  | some .issue | some (.bar _ _) => true
  | _ => false

/-- A thread that a memory or unit has served while it was parked: its instruction is complete. -/
def Thread.finish (t : Thread) : Thread :=
  let t := t.tick.step4.counted
  { t with pipe := { t.pipe with park := none } }

/-! ### The plan of a meaning -/

/-- The result of the checks and the effect of an instruction: it completes in a state, it traps leaving nothing, it traps
leaving the part of its effect that the state given holds, or it waits in a state without having executed. -/
inductive Effort where
  | done (s : State)
  | trap (c : Cause)
  | trapIn (s : State) (c : Cause)
  | parked (s : State)

/-- The privileged cause and the illegal-instruction cause of an instruction's word (08_encoding.md R140). -/
def privileged (i : Instr) : Cause := causeOf 0x02 (zx (encode i))
def illegal (i : Instr) : Cause := causeOf 0x01 (zx (encode i))

/-- The registers an instruction reads or writes, as pending registers (R10); w0 is none. -/
def wRegs (rs : List Reg) : List (BitVec 5) := (rs.filter (· ≠ 0)).map wReg
def vRegs (rs : List Reg) : List (BitVec 5) := rs.map vReg

/-- The lookahead violation (R10): a register of the instruction stands in an open window. -/
def Thread.violation (t : Thread) (regs : List (BitVec 5)) (word : Word) : Option Cause :=
  (t.pipe.pend.find? (fun p => 0 < p.left && regs.contains p.reg)).map fun p => ⟨0x03, p.reg.setWidth 8, word⟩

/-- The machine after an issue, from the state `s` before it: a trap leaves everything else as it was, and a thread that parks or
waits in issue has not used up its windows. -/
def Effort.outcome (s : State) : Effort → Result
  | .done s' => .next s'
  | .trap c => .next (s.takeTrap c)
  | .trapIn s' c => .next ((s'.mapTh fun t => { t with pipe := { t.pipe with pend := s.th.pipe.pend } }).takeTrap c)
  | .parked s' => .next (s'.mapTh fun t => { t with pipe := { t.pipe with pend := s.th.pipe.pend } })

/-- How an instruction runs (08_encoding.md R141): the causes `pre` of privilege and state come first, then the lookahead
violation, then the effect, with each open window one instruction shorter. -/
def issue (i : Instr) (s : State) (pre : Option Cause) (regs : List (BitVec 5)) (body : State → Effort) : Result :=
  match pre with
  | some c => .next (s.takeTrap c)
  | none =>
    match s.th.violation regs (zx (encode i)) with
    | some c => .next (s.takeTrap c)
    | none =>
      (body (s.mapTh Thread.tick)).outcome s

/-- An instruction with a short effect that neither traps nor waits. -/
def simple (i : Instr) (s : State) (regs : List (BitVec 5)) (f : State → State) : Result :=
  issue i s none regs fun s => .done (f s)

end Sys2Proof.Machine
end

