-- ==== Sys2Proof/Machine/Lanes.lean ====
section
/-! DEFINITION. The lanes of a vector register (07_numbers.md R111; 09_matrix_vector.md R157), and one lane's arithmetic, comparison
and conversion for each element type (07_numbers.md R112 to R117, R125; 22 R382; 23 R384, R387, R388). -/
namespace Sys2Proof.Machine

/-! ### Lanes -/

/-- Lane `i` of width `w`. -/
def lane (w : Nat) (v : Vec) (i : Nat) : Nat := v.toNat >>> (i * w) % 2 ^ w
/-- The register with lane `i` replaced. -/
def setLane (w : Nat) (v : Vec) (i x : Nat) : Vec := setBits v (i * w + w - 1) (i * w) x

/-- The lanes below `n` that the mask enables, written one after another as `f` gives them. -/
def writeLanes (w : Nat) (mask : Word) (f : Nat → Nat) : Nat → Vec → Vec
  | 0, v => v
  | n + 1, v =>
    let v := writeLanes w mask f n v
    if bit mask n then setLane w v n (f n) else v

/-- The lanes below `n` that the mask enables, in ascending order (R394). -/
def enabledLanes (mask : Word) (n : Nat) : List Nat := (List.range n).filter (bit mask)

/-! ### Element types -/

/-- What a lane holds: an integer, an IEEE float, a narrow float, or a log number by its log bits and bias. -/
inductive Elem where
  | int (signed : Bool) (w : Nat)
  | ieee (f : FFmt)
  | narrow (f : NFmt)
  | log (q : Nat) (bias : Int)
  deriving DecidableEq, Repr

/-- The element type of an et code (R111). -/
def elemOf (e : Reg) : Elem :=
  match e.toNat with
  | 0 => .int true 8
  | 1 => .int false 8
  | 2 => .int true 16
  | 3 => .int true 32
  | 4 => .int true 64
  | 5 => .ieee fF16
  | 6 => .ieee fBF16
  | 7 => .ieee fF32
  | 8 => .ieee fF64
  | 9 => .narrow nF8A
  | 10 => .narrow nF8B
  | _ => .log 5 4

/-- The width of a lane and the number of lanes of an et code (R111). -/
def laneWidth (e : Reg) : Nat :=
  match e.toNat with
  | 0 | 1 | 9 | 10 | 11 => 8
  | 2 | 5 | 6 => 16
  | 3 | 7 => 32
  | _ => 64
def laneCount (e : Reg) : Nat := 512 / laneWidth e

/-- The element format of an fmt code (R389). -/
def fmtElem (f : Reg) : Elem :=
  match f.toNat with
  | 0 => .int true 8
  | 1 => .int false 8
  | 2 => .int true 16
  | 3 => .int true 4
  | 4 => .int false 4
  | 5 => .narrow nF6A
  | 6 => .narrow nF6B
  | 7 => .narrow nF4
  | 8 => .log 3 1
  | 9 => .narrow nF8A
  | 10 => .narrow nF8B
  | _ => .log 5 4

/-- Bits of an element. -/
def Elem.bits : Elem → Nat
  | .int _ w => w
  | .ieee f => f.width
  | .narrow f => f.eb + f.mb + 1
  | .log q _ => q + 1

/-- An integer lane as an integer. -/
def readInt (signed : Bool) (w x : Nat) : Int :=
  let x := x % 2 ^ w
  if signed && 2 ^ (w - 1) ≤ x then (x : Int) - 2 ^ w else x

/-- An integer as the low `w` bits. -/
def toLane (w : Nat) (x : Int) : Nat := (x % (2 ^ w : Int)).toNat

/-- The least and the greatest integer of a type. -/
def intLo (signed : Bool) (w : Nat) : Int := if signed then -(2 ^ (w - 1)) else 0
def intHi (signed : Bool) (w : Nat) : Int := if signed then 2 ^ (w - 1) - 1 else 2 ^ w - 1

/-- The exact value that a code stands for. -/
def Elem.value (k : Elem) (x : Nat) : FVal :=
  match k with
  | .int s w => intVal (readInt s w x)
  | .ieee f => f.value x
  | .narrow f => f.value x
  | .log q b => lnsValue q b (x % 2 ^ (q + 1))

/-- A value written in the type under S8 scale code `c`, which IEEE types do not take (R113, R114, R116, R117, R382). -/
def Elem.encode (k : Elem) (rm : RMode) (c : Nat) (x : FVal) : Nat :=
  match k with
  | .int s w => if c = 255 then 0 else toLane w ((x.scaleDown (c - 127)).toIntSat rm (intLo s w) (intHi s w))
  | .ieee f => f.round rm x
  | .narrow f => f.convert c x
  | .log q b => lnsConvert q b c x

/-- A value rounded into the type with a scale of 1. -/
def Elem.round (k : Elem) (rm : RMode) (x : FVal) : Nat := k.encode rm 127 x

/-- The canonical NaN or NaR of a float type. -/
def Elem.nan (k : Elem) : Nat := k.round 0 .nan

/-- The code is a NaN or NaR. -/
def Elem.isNan (k : Elem) (x : Nat) : Bool :=
  match k with
  | .int _ _ => false
  | k => k.value x = .nan

/-- The code without the bits that its type ignores, and with a NaN made canonical. -/
def Elem.canon (k : Elem) (x : Nat) : Nat := if k.isNan x then k.nan else x % 2 ^ k.bits

/-! ### Lane arithmetic (R384) -/

/-- x + y. -/
def Elem.add (k : Elem) (rm : RMode) (x y : Nat) : Nat :=
  match k with
  | .int _ w => (x + y) % 2 ^ w
  | k => k.round rm (FVal.add rm (k.value x) (k.value y))
/-- x - y. -/
def Elem.sub (k : Elem) (rm : RMode) (x y : Nat) : Nat :=
  match k with
  | .int _ w => (x + (2 ^ w - y % 2 ^ w)) % 2 ^ w
  | k => k.round rm (FVal.add rm (k.value x) (k.value y).neg)
/-- x · y. -/
def Elem.mul (k : Elem) (rm : RMode) (x y : Nat) : Nat :=
  match k with
  | .int _ w => x * y % 2 ^ w
  | k => k.round rm (FVal.mul (k.value x) (k.value y))
/-- x · y + z, rounded once. -/
def Elem.fma (k : Elem) (rm : RMode) (x y z : Nat) : Nat :=
  match k with
  | .int _ w => (x * y + z) % 2 ^ w
  | k => k.round rm (FVal.add rm (FVal.mul (k.value x) (k.value y)) (k.value z))

/-- The larger; a NaN or NaR loses to a number, and +0 is larger than -0 (R113). -/
def Elem.max (k : Elem) (x y : Nat) : Nat :=
  match k with
  | .int s w => if readInt s w x < readInt s w y then y else x
  | k =>
    if k.isNan x && k.isNan y then k.nan
    else (if (k.value x).takeMax (k.value y) then x else y) % 2 ^ k.bits
/-- The smaller. -/
def Elem.min (k : Elem) (x y : Nat) : Nat :=
  match k with
  | .int s w => if readInt s w y < readInt s w x then y else x
  | k =>
    if k.isNan x && k.isNan y then k.nan
    else (if (k.value x).takeMin (k.value y) then x else y) % 2 ^ k.bits

/-- A logical operation on the lane bits (R384). -/
def Elem.logic (k : Elem) (f : Nat → Nat → Nat) (x y : Nat) : Nat := f x y % 2 ^ k.bits

/-- Shifts by the amount modulo the width, of integer types. -/
def Elem.shl (k : Elem) (x y : Nat) : Nat :=
  match k with
  | .int _ w => x <<< (y % w) % 2 ^ w
  | _ => x
def Elem.shr (k : Elem) (x y : Nat) : Nat :=
  match k with
  | .int s w => toLane w (readInt s w x / 2 ^ (y % w))
  | _ => x

/-- A comparison by its code: eq, ne, lt, le, gt, ge (R387). -/
def Elem.cmp (k : Elem) (c : BitVec 3) (x y : Nat) : Bool :=
  if k.isNan x || k.isNan y then c = 1
  else
    let lt := (k.value x).lt (k.value y)
    let gt := (k.value y).lt (k.value x)
    match c.toNat with
    | 0 => !lt && !gt
    | 1 => lt || gt
    | 2 => lt
    | 3 => !gt
    | 4 => gt
    | _ => !lt

/-- A conversion between types (R117, R388). -/
def convert (src dst : Elem) (rm : RMode) (x : Nat) : Nat := if src = dst then src.canon x else dst.round rm (src.value x)

/-- The value of VMOVS: sign-extended for signed integers, zero-extended otherwise (R385). -/
def Elem.extend (k : Elem) (x : Nat) : Word :=
  match k with
  | .int s w => BitVec.ofInt 64 (readInt s w x)
  | k => BitVec.ofNat 64 (x % 2 ^ k.bits)

end Sys2Proof.Machine
end

