-- ==== Sys2Proof/Machine/Charge.lean ====
section
/-! DEFINITION. What the issue of a vector instruction is charged (04_threads.md R65, R66). -/
namespace Sys2Proof.Machine

/-- Quarters of the register that hold an enabled lane, at least 1. -/
def quarters (mask : Word) (lanes : Nat) : Nat :=
  Nat.max 1 ((List.range 4).filter (fun q => (List.range (lanes / 4)).any (fun i => bit mask (q * (lanes / 4) + i)))).length

/-- f of add, subtract, min, max, compare and reduction by element type. -/
def addFactor (e : Reg) : Nat := if e = 8 then 8 else if e < 5 then 1 else if e = 7 then 3 else 2
/-- f of multiply and VFMA by element type. -/
def mulFactor (e : Reg) : Nat := if e = 8 then 8 else if e < 5 then 1 else 4

/-- The charge under mask `m` over `n` lanes with factor `f`. -/
def Thread.units (t : Thread) (m : BitVec 2) (n f : Nat) : Nat := quarters (t.rdm m) n * f

/-- The charge of an instruction in the thread (R65); none for one that is not charged. DESIGN CHOICE (log entry 44): the quarters of a VCVT are
counted over the lanes of its destination type, the rule not saying of which register. -/
def Thread.charge (t : Thread) (i : Instr) : Option Nat :=
  match i with
  | .vadd _ _ _ m e _ | .vsub _ _ _ m e _ | .vmin _ _ _ m e | .vmax _ _ _ m e | .vcmp _ _ _ _ m e | .vred _ _ _ m e _ =>
    some (t.units m (laneCount e) (addFactor e))
  | .vmul _ _ _ m e _ | .vfma _ _ _ m e _ => some (t.units m (laneCount e) (mulFactor e))
  | .vand _ _ _ m e | .vor _ _ _ m e | .vxor _ _ _ m e | .vshl _ _ _ m e | .vshr _ _ _ m e | .vsel _ _ m e | .vperm _ _ _ m e
  | .vbcast _ _ m e | .viota _ _ m e | .vgmask _ _ m e => some (t.units m (laneCount e) 1)
  | .vcvt _ _ st m e _ => some (t.units m (laneCount e) (if st = 8 || e = 8 then 8 else 2))
  | .vexp2 _ _ m _ | .vlog2 _ _ m _ | .vrcp _ _ m _ | .vrsq _ _ m _ | .vtwid _ _ _ m | .vgumb _ _ m => some (t.units m 16 16)
  | .vqnt _ _ _ m _ | .vdqnt _ _ _ m _ _ => some (t.units m 16 2)
  | .vbfly _ _ _ m => some (t.units m 16 4)
  | .vbound _ _ _ m e _ => some (t.units m (laneCount e) 4)
  | .vtopk _ _ _ m e => some (t.units m 16 (if e = 7 then 3 else 2))
  | .vrng _ _ _ m _ => some (t.units m 16 1)
  | .mand .. | .mor .. | .mnot .. | .mfirst .. | .vmovs .. | .vld .. | .vst .. | .vlds .. | .vgat .. => some 4
  | _ => none

/-- The thread may issue an instruction of the charge before the next refill (R66). -/
def Thread.affords (t : Thread) (u : Nat) : Bool := u ≤ t.pipe.ebud.toNat || !t.pipe.vecIssued

/-- The thread charged (R66). -/
def Thread.charged (t : Thread) (u : Nat) : Thread :=
  { t with pipe := { t.pipe with ebud := BitVec.ofNat 64 (t.pipe.ebud.toNat - u), vecIssued := true } }

/-- The thread issues nothing before the next refill (R66). -/
def Thread.starve (t : Thread) : Thread := { t with pipe := { t.pipe with starved := true } }

end Sys2Proof.Machine
end

