-- ==== Sys2Proof/Machine/MemoryOps.lean ====
section
/-! DEFINITION. What the owning memories do: stores with their old-value exchange, full/empty words and the pass over
waiters (03_addresses.md R45 to R47), held words (R48 to R50), the task dispensers (05_work.md R83, R84) and work lists
(R86, R87). -/
namespace Sys2Proof.Machine

/-- A write of core `c`'s local memory that no slot of it makes by its own stores (10_traps.md R174). -/
def State.foreign (s : State) (c : Cid) (src : Tid) (handle : Word) (kind : BitVec 4) : Bool :=
  tidCore src ≠ c || handle ≠ s.handleOf src || 7 ≤ kind
/-- It is not let in: the core is in replay mode and takes such writes from its log only (10_traps.md R175). -/
def State.shut (s : State) (pl : Place) (src : Tid) (handle : Word) (kind : BitVec 4) : Bool :=
  pl.port.any fun (c, _) => s.replays c && s.foreign c src handle kind

/-- `n` bytes stored at a place. A write that covers a word whole clears its error (22 R373). The write is logged in the
trace ring of its port, and in the receive log when another agent made it (kind 13); a core in replay mode takes such a write from its log
only (10_traps.md R175). A peer discards a store to its doorbell alias
(18_host.md R296). -/
def State.storeBy (s : State) (pl : Place) (src : Tid) (handle : Word) (kind : BitVec 4) (n v : Nat) : State :=
  if s.shut pl src handle kind then s else
  let s1 := if pl.special = .peerDoorbell then s else (s.clearPoison pl.key n).putBytes pl n v
  match pl.port with
  | none => s1
  | some (c, off) =>
    let s2 := s1.traced c src kind off n
    if s.foreign c src handle kind then
      (s2.logArrival c 13 0 handle (BitVec.ofNat 64 (n * 2 ^ 32 + off))).logContinuation c
        ((List.range ((n + 7) / 8)).map fun i => BitVec.ofNat 64 (v / 2 ^ (64 * i)))
    else s2
def State.storeAt (s : State) (pl : Place) (src : Tid) (kind : BitVec 4) (n v : Nat) : State :=
  s.storeBy pl src (s.handleOf src) kind n v

/-- The full/empty bit of a place's word is set; a change that no slot of its core makes is logged as an arrival with a byte count of 0
(10_traps.md R174; log entry 22). -/
def State.setBitBy (s : State) (pl : Place) (src : Tid) (handle : Word) (kind : BitVec 4) (full : Bool) : State :=
  if s.isFull pl.key = full || s.shut pl src handle kind then s
  else
    let s1 := s.setFull pl.key full
    match pl.port with
    | none => s1
    | some (c, off) =>
      if s.foreign c src handle kind then
        s1.logArrival c 13 0 handle (BitVec.ofNat 64 ((if full then 2 ^ 21 else 0) + off / 8 * 8))
      else s1
def State.setBitAt (s : State) (pl : Place) (src : Tid) (kind : BitVec 4) (full : Bool) : State :=
  s.setBitBy pl src (s.handleOf src) kind full

/-- The agent that a holder stands for. -/
def Holder.agent : Holder → Holder
  | .turn t => .thread t
  | h => h
/-- The word being held by another holder than `p` (R49). -/
def State.heldAgainst (s : State) (p : Option Holder) (key n : Nat) : Option HeldWord :=
  s.held.find? (fun h => wordKey key ≤ h.key && h.key < key + n && some h.holder.agent ≠ p)
/-- The word being held by a thread other than `t`, or by a peer. -/
def State.heldByOther (s : State) (t : Option Tid) (key n : Nat) : Option HeldWord := s.heldAgainst (t.map .thread) key n

/-! ### Logged stores (15_time_axes.md R246) -/

/-- The old value and bit written into the record reserved at `rec` of the owner's stack, with VT, address and FEV as the
reservation left them. -/
def State.fillRecord (s : State) (t : Thread) (rec : Nat) (old : Word) (fe : Bool) : State :=
  let (vt, w1, _, _) := s.recordAt t rec
  s.writeRecord t rec [vt, if fe && bit w1 49 then setBit w1 48 true else w1, old, 0]

/-- A reserved old-value record for the word at `addr`: VT := LVT, FEV as given (R245). -/
def State.reserveOld (s : State) (addr : Word) (fev : Bool) : Nat × State :=
  (s.th.rw.top, s.pushRecord (BitVec.ofNat 64 (addr.toNat / 8 * 8)) 0 0 fev false 0 0)

/-! ### Performing requests -/

/-- The handle of an effect's thread. -/
def Effect.handle (e : Effect) : Word := mkHandle e.ly e.lx e.slot
/-- The effect's thread, which may stand in a save area (10_traps.md R168). -/
def Effect.party (e : Effect) : Holder :=
  match e.saved with
  | some n => .saved e.part n
  | none => .thread e.owner

/-- The holder on whose behalf the request is made, if any. -/
def Waiter.party (w : Waiter) : Option Holder :=
  match w.op with
  | .peer m _ => some (.peer m)
  | .effect e _ _ => some e.party
  | _ => w.owner.map .thread

/-- The quad at whose dispenser a waiting request posts, and the poster (05_work.md R84). -/
def Waiter.posting (w : Waiter) : Option (Nat × Word) :=
  match w.op, w.pl.special with
  | .post q poster, _ => some (q, poster)
  | .effect e _ _, .doorbell q _ => some (q, e.handle)
  | _, _ => none

/-- The byte at which a request waits. -/
def Waiter.place (w : Waiter) : Nat := w.pl.key

/-- The condition under which a waiting request is performed: no other thread holds the word, and the bit is as the request
needs it (R46, R49). -/
def Waiter.ready (w : Waiter) (s : State) : Bool :=
  (s.heldAgainst w.party w.place w.size).isNone &&
  match w.op with
  | .ldf | .ldfe => s.isFull w.place
  | .stef => !s.isFull w.place
  | .peer _ op => if op = 2 || op = 3 then s.isFull w.place else if op = 5 then !s.isFull w.place else true
  | _ => true

/-- The thread to which a trace entry of the request's write is charged: the one that made it, or whose instruction caused it. DESIGN
CHOICE (log entry 67): thread 0 where there is none, a write that the host or a peer module caused. -/
def Waiter.src (w : Waiter) : Tid :=
  match w.op with
  | .signal cause => cause
  | _ => w.owner.getD 0

/-- The source that a log record of the request's write carries (10_traps.md R174). -/
def Waiter.origin (w : Waiter) (s : State) : Word :=
  match w.op, w.owner with
  | .peer m _, _ => BitVec.ofNat 64 (2 ^ 63 + m.toNat)
  | _, some t => s.handleOf t
  | _, none => allOnes

/-- The request's bytes stored. -/
def Waiter.store (w : Waiter) (kind : BitVec 4) (n : Nat) (s : State) : State :=
  s.storeBy w.pl w.src (w.origin s) kind n w.data.toNat

/-- The bit of the request's word set. -/
def Waiter.setBit (w : Waiter) (kind : BitVec 4) (full : Bool) (s : State) : State :=
  s.setBitBy w.pl w.src (w.origin s) kind full
/-- Thread `t`, for which the request waited, is told so by a record of the kind where the word lies outside its core (10_traps.md R174). -/
def Waiter.told (w : Waiter) (t : Tid) (kind : BitVec 4) (x : Word) (s : State) : State :=
  if w.pl.space = .loc (tidCore t) then s else s.logArrival (tidCore t) kind (tidSlot t) (sourceAt w.place) x

/-- A faulted load found at the memory (10_traps.md R165): its result stays pending, faulted, and the access is held. -/
def Thread.faultLoad (t : Thread) (r : BitVec 5) (h : HeldAccess) : Thread :=
  let h := match t.pipe.pend.find? (fun p => p.reg = r && p.st != .arrived) with
    | some p => { h with left := p.left, seq := p.seq }
    | none => h
  ({ t with pipe := { t.pipe with
    pend := t.pipe.pend.map (fun p => if p.reg = r && p.st != .arrived then { p with st := .faulted } else p) } } : Thread).hold h

/-- The vector load pending in register `r`. -/
def Thread.vectorPending (t : Thread) (r : BitVec 5) : Option Pending :=
  t.pipe.pend.find? fun p => p.reg = r && (match p.st with
    | .vector .. => true
    | _ => false)
/-- An element of thread `t`'s vector load is read (23 R393; 10_traps.md R165, R174): the last one completes it, and an error ends it. -/
def State.laneRead (s : State) (w : Waiter) (t : Tid) (k : Nat) : State :=
  let r := vReg w.reg
  match (s.thread t).vectorPending r with
  | none => s
  | some p =>
    match p.st with
    | .vector i addrs x left source =>
      match s.poisonIn w.place w.size with
      | some e =>
        let a := if w.size = 64 then w.addr + BitVec.ofNat 64 ((e - w.place) / 8 * 8) else w.addr
        let s1 : State := { s with waiters := s.waiters.filter fun y => !(y.owner == some t && y.reg = w.reg && (match y.op with
          | .lane _ => true
          | _ => false)) }
        s1.updThread t (·.faultLoad r { heldFault i a 0 0 ⟨0x0A, 0, a⟩ p.seq with copy := some addrs })
      | none =>
        let y := x ||| BitVec.ofNat 512 (s.bytesAt w.pl w.size * 2 ^ k)
        if left ≤ 1 then
          let ws := (List.range 8).map fun i => y.extractLsb' (64 * i) 64
          (match source with
            | some src => (s.logArrival (tidCore t) 2 (tidSlot t) src (ws.headD 0)).logContinuation (tidCore t) ws
            | none => s).updThread t (·.arrive r y)
        else s.updThread t fun z => { z with pipe := { z.pipe with
          pend := updBy (· == p) (fun q => { q with st := .vector i addrs y (left - 1) source }) z.pipe.pend } }
    | _ => s

/-- The word's error address as TVAL. -/
def errorAt (w : Waiter) : Word := BitVec.ofNat 64 (w.addr.toNat / 8 * 8)

/-- The `n` old words from the place on captured into as many records from `rec` up. -/
def State.fillRecords (s : State) (t : Thread) (rec : Nat) (pl : Place) : Nat → State
  | 0 => s
  | n + 1 => (s.fillRecord t rec (s.wordAt pl) (s.isFull pl.key)).fillRecords t (t.rw.up rec 1) (pl.up 8) n

/-- The place of the word that holds the request's bytes. -/
def Waiter.wordPlace (w : Waiter) : Place :=
  { w.pl with key := wordKey w.place, off := w.pl.off - w.place % 8 }

/-- The old words captured into the request's records, when it has any: one, or the eight of a VST (R246). -/
def State.exchange (s : State) (w : Waiter) : State :=
  match w.record, w.owner with
  | some rec, some t => s.fillRecords (s.thread t) rec w.wordPlace (if w.size = 64 then 8 else 1)
  | _, _ => s

/-- Something done with thread `t` as the current one. -/
def State.asThread (s : State) (t : Tid) (f : State → State) : State := (f (s.focus t)).focus s.th.tid

/-- The old-value record of a STEF that logs is pushed as the STEF is performed: while it waits its thread pushes nothing else,
and a withdrawn STEF leaves no record. -/
def State.pushFor (s : State) (w : Waiter) : State :=
  match w.record, w.owner with
  | some _, some t => s.asThread t fun s =>
      let (rec, s1) := s.reserveOld (absolute s.part s.th.agent w.addr) true
      s1.fillRecord s1.th rec (s.wordAt w.wordPlace) (s.isFull w.place)
  | _, _ => s

/-- A thread whose waiting request has been performed completes its instruction. -/
def State.finishThread (s : State) (t : Option Tid) : State :=
  match t with
  | none => s
  | some t => s.updThread t Thread.finish

/-- A peer's request is performed at the owning memory (18_host.md R296); its reply carries the value, or the error. -/
def Waiter.performPeer (w : Waiter) (m : BitVec 6) (op : BitVec 4) (s : State) : State :=
  let store (n : Nat) : State := w.store 14 n s
  match op.toNat with
  | 1 => store w.size
  | 2 | 3 =>
    if (s.poisonIn w.place 8).isSome then s.output (.peerError m)
    else
      let s1 := s.output (.peerReply m (s.wordAt w.pl))
      if op = 3 then w.setBit 14 false s1 else s1
  | 4 => w.setBit 14 true (store 8)
  | 5 => (w.setBit 14 true (store 8)).output (.peerReply m 0)
  | 6 => s.output (.peerReply m (b2w (s.isFull w.place)))
  | 7 => w.setBit 14 (bit w.data 0) s
  | _ => s

/-- A deferred effect's store is performed: the entry leaves its core's queue, or the DEFER that waits for it completes, with its record
and the entry that it keeps (15_time_axes.md R252; 17_run_ahead.md R279). -/
def State.effectStored (s : State) (e : Effect) (own keep : Bool) : State :=
  if own then
    (s.asThread e.owner fun s =>
      let s1 := if keep then s.mapCore fun c => { c with commits := c.commits ++ [{ e with left := true }] } else s
      (if s1.th.logs then s1.pushRecord 0 3 0 false false e.id e.vt else s1).mapTh fun t =>
        { t with pipe := { t.pipe with record := none } }).finishThread (some e.owner)
  else s.updCore (tidCore e.owner) fun c => { c with commits := c.commits.filter (· != e) }

/-- The top `n` records popped (15_time_axes.md R247; PUSHNO counts pushes, 16_boosted_tasks.md R253). -/
def Thread.popRecords (t : Thread) (n : Nat) : Thread :=
  { t with rw := { t.rw with rstk := BitVec.ofNat 64 (t.rw.down t.rw.top n), count := t.rw.count - n } }

/-- What ROLL makes of the word `old` (R245; 12_prefix_index.md R210; 16_boosted_tasks.md R259; 21 R347). -/
def undone (what : BitVec 2) (old data : Word) : Word :=
  match what.toNat with
  | 0 => data
  | 1 => old - data
  | 2 => if data.toNat < bits old 31 0 then setBits old 31 0 data.toNat else old
  | _ =>
    let pin := bits old 31 16
    if bit data 63 then (if pin < 65535 then setBits old 31 16 (pin + 1) else old)
    else if 1 ≤ pin then setBits old 31 16 (pin - 1) else old

/-- The word of a record undone by thread `t` at the place, and with `fe` its bit (R245). -/
def State.undoAt (s : State) (t : Tid) (pl : Place) (what : BitVec 2) (fe : Option Bool) (data : Word) : State :=
  let s1 := s.storeAt pl t 13 8 (undone what (s.wordAt pl) data).toNat
  match fe with
  | some b => s1.setBitAt pl t 13 b
  | none => s1

/-- A request is performed at its memory. DESIGN CHOICE (log entry 42): R102's table names no kind for a FAR and for the add of an ABOP; both are
traced as kind 0. -/
def Waiter.perform (w : Waiter) (s : State) : State :=
  let src := w.src
  match w.op with
  | .ldf | .ldfe =>
    match w.owner with
    | none => s
    | some t =>
      if (s.poisonIn w.place 8).isSome then
        let i : Instr := if w.op = .ldfe then .ldfe w.reg 0 0 0 else .ldf w.reg 0 0 0
        s.updThread t (·.faultLoad (wReg w.reg) (heldFault i w.addr 0 0 ⟨0x0A, 0, errorAt w⟩ w.seq))
      else
        let x := s.wordAt w.pl
        let s1 := w.told t 3 x (s.arrive t w.reg x)
        if w.op = .ldfe then w.setBit 0 false s1 else s1
  | .stef =>
    let s1 := (w.setBit 3 true (w.store 3 8 (s.pushFor w))).finishThread w.owner
    match w.owner with
    | some t => w.told t 3 0 s1
    | none => s1
  | .stf | .signal _ => w.setBit 2 true (w.store 2 8 (s.exchange w))
  | .fetest =>
    match w.owner with
    | none => s
    | some t =>
      let x := b2w (s.isFull w.place)
      w.told t 2 x (s.arrive t w.reg x)
  | .feset => w.setBit 4 (bit w.data 0) ((s.exchange w).tracedAt w.pl src 4 8)
  | .store kind size => w.store kind (if kind = 6 then 64 else 2 ^ size.toNat) (s.exchange w)
  | .far op =>
    if (s.poisonIn w.place 8).isSome then
      match w.owner with
      | none => s
      | some t => s.updThread t (·.hold (heldFault (.far 0 0 op 0) w.addr (w.data.setWidth 64) 0 ⟨0x0A, 0, errorAt w⟩ w.seq))
    else s.storeAt w.pl src 0 8 (farResult op (s.wordAt w.pl) (w.data.setWidth 64)).toNat
  | .post _ _ => s
  | .count made =>
    match w.owner with
    | none => s
    | some t =>
      if (s.poisonIn w.place 8).isSome then
        ({ s with dir := s.dir.filter fun e => some e.id ≠ made } : State).asThread t (·.takeTrap ⟨0x0A, 0, errorAt w⟩)
      else
        ((s.storeAt w.pl src 0 8 (s.wordAt w.pl + w.data.setWidth 64).toNat).asThread t fun s =>
          (s.pushRecord 0 1 2 false false (w.data.setWidth 64) w.addr).unitWrite w.reg 0).finishThread w.owner
  | .effect e own keep =>
    let s1 := s.storeAt w.pl e.owner (if e.kind = 1 then 2 else 0) 8 w.data.toNat
    (if e.kind = 1 then s1.setBitAt w.pl e.owner 2 true else s1).effectStored e own keep
  | .undo what fe =>
    match w.owner with
    | none => s
    | some t =>
      if what ≠ 0 && (s.poisonIn w.place 8).isSome then s.asThread t (·.takeTrap ⟨0x0A, 0, errorAt w⟩)
      else
        (s.undoAt t w.pl what fe (w.data.setWidth 64)).updThread t fun x =>
          let y := x.popRecords 1
          { y with pipe := { y.pipe with park := none } }
  | .write kind => w.store kind 8 s
  | .lane k =>
    match w.owner with
    | none => s
    | some t => s.laneRead w t k
  | .turn =>
    match w.owner with
    | none => s
    | some t => { s with held := s.held ++ [⟨wordKey w.place, .turn t, s.cycle, false, []⟩] }
  | .peer m op => w.performPeer m op s

/-- One pass over the waiters of a word, in the order they joined: each whose condition holds at its turn is performed and
leaves (R47). -/
def passOnce (key : Nat) : List Waiter → State → State
  | [], s => s
  | w :: ws, s =>
    if wordKey w.place ≤ key && key < w.place + w.size && w.retryAt.isNone && s.waiters.contains w && w.ready s &&
        w.posting.isNone then
      passOnce key ws (w.perform { s with waiters := s.waiters.erase w })
    else passOnce key ws s

/-- Passes over the waiters of a word until one changes nothing (R47). -/
def passes (key : Nat) : Nat → State → State
  | 0, s => s
  | n + 1, s =>
    let s' := passOnce key s.waiters s
    if s'.waiters.length = s.waiters.length then s' else passes key n s'

/-- WAIT_LIST_PASS: the memory's passes over the word of byte `key`. -/
def State.waitListPass (s : State) (key : Nat) : State := passes (wordKey key) (s.waiters.length + 1) s

/-- A word's bit is set by thread `src`, and if it changes the memory makes its passes (R47). -/
def State.changeBit (s : State) (pl : Place) (src : Tid) (full : Bool) : State :=
  let s1 := s.setBitAt pl src 0 full
  if s1.isFull pl.key = s.isFull pl.key then s else s1.waitListPass pl.key

/-! ### Wait lists -/

/-- The memory that owns a byte, and the size of its wait list (R47): 64 entries per local memory, 16 per SBM bank and
4,096 per HBM controller, one controller for each stack. -/
def memoryOf (key : Nat) : Nat × Nat × Nat :=
  if key < 2 ^ 50 then (0, key / localBytes, 64)
  else if key < 2 ^ 51 then (1, (key - 2 ^ 50) / 2 ^ 28 * 1024 + (key - 2 ^ 50) / 64 % 1024, 16)
  else if key < 2 ^ 52 then (2, (key - 2 ^ 51) / 2 ^ 36, 4096)
  else if key < 2 ^ 54 then (3, (key - 2 ^ 53) / localBytes, 64)
  else if key < 2 ^ 60 then (4, (key - 2 ^ 54) / 2 ^ 36, 4096)
  else (5, 0, 4096)

/-- Whether the list of the byte's memory has room. -/
def State.waitRoom (s : State) (key : Nat) : Bool :=
  let m := memoryOf key
  (s.waiters.filter (fun w => w.retryAt.isNone && (memoryOf w.place).1 = m.1 && (memoryOf w.place).2.1 = m.2.1)).length < m.2.2

/-- A request joins the wait list of its memory, or is to be sent again after 256 cycles when the list is full (R47). -/
def State.enlist (s : State) (w : Waiter) : State :=
  { s with waiters := s.waiters ++
      [if s.waitRoom w.place then w else { w with retryAt := some (s.cycle + Config.resendCycles) }] }

/-- A request arrives at its memory: performed at once when its condition holds, with the passes that a change of the bit
makes, and otherwise put on the wait list. -/
def State.request (s : State) (w : Waiter) : State :=
  if w.ready s then
    let s' := w.perform s
    if s'.isFull w.place = s.isFull w.place then s' else s'.waitListPass w.place
  else s.enlist w

/-! ### Held words (R48 to R50) -/

/-- The thread's reservation for register `reg` is one that the prefix-and-KV unit made on its behalf: its grant is the
unit's, and no value goes to the register (12_prefix_index.md R206). -/
def Thread.forUnit (t : Thread) (reg : Reg) : Bool :=
  t.pipe.pend.any (fun p => p.reg = wReg reg && (match p.st with
    | .unit .. => true
    | _ => false))

/-- Thread `n` of the save area. -/
def SaveArea.find (a : SaveArea) (n : Nat) : Option Thread := ((a.threads ++ a.outThreads).find? (·.num = n)).map (·.thread)
/-- The threads of partition `p`'s save area that `c` picks changed by `f`. -/
def State.updSavedBy (s : State) (p : BitVec 6) (c : SavedThread → Bool) (f : Thread → Thread) : State :=
  let g (y : SavedThread) : SavedThread := { y with thread := f y.thread }
  s.updPart p fun x => { x with save := { x.save with
    threads := updBy c g x.save.threads
    outThreads := updBy c g x.save.outThreads } }

/-- The word of byte `key` as an access under key index `enc` reads it. -/
def State.wordUnder (s : State) (enc : BitVec 13) (key : Nat) : Word := (s.under enc key 8).word key

/-- Some words stored from the place on for thread `t`, by a unit: one that another agent holds waits at its memory (R49). -/
def State.storeEach (s : State) (t : Tid) (kind : BitVec 4) (addr : Word) (pl : Place) : List Word → State
  | [] => s
  | x :: xs =>
    let s1 := if (s.heldByOther (some t) pl.key 8).isSome then
        s.enlist ⟨some t, pl, 8, addr, .write kind, x.setWidth 512, 0, none, none, (s.thread t).ident.icnt⟩
      else s.storeAt pl t kind 8 x.toNat
    s1.storeEach t kind (addr + 8) (pl.up 8) xs
/-- The same as one write where no word of it is held. -/
def State.storeWords (s : State) (t : Tid) (kind : BitVec 4) (addr : Word) (pl : Place) (ws : List Word) : State :=
  if (s.heldByOther (some t) pl.key (8 * ws.length)).isSome then s.storeEach t kind addr pl ws
  else s.storeAt pl t kind (8 * ws.length) (ws.foldr (fun w acc => w.toNat + 2 ^ 64 * acc) 0)
/-- A unit's write for thread `t` still waits at a memory. -/
def State.writesWait (s : State) (t : Tid) : Bool := s.waiters.any fun w => w.owner == some t && (match w.op with
  | .write _ => true
  | _ => false)

/-- The core of a holder that is a thread in its slot. -/
def Holder.core : Holder → Option Cid
  | .thread t | .turn t => some (tidCore t)
  | _ => none
/-- A grant to thread `t` that something outside its core made possible is logged; of a word of its own memory with the place in program order
of the HOLD, by which a replay knows it (10_traps.md R174; log entry 22). -/
def State.toldGrant (s : State) (key : Nat) (prev : Option Cid) (t : Tid) (reg : Reg) (x : Word) : State :=
  if key / localBytes ≠ (tidCore t).toNat then s.logArrival (tidCore t) 4 (tidSlot t) (sourceAt key) x
  else if prev = some (tidCore t) then s
  else
    (s.logArrival (tidCore t) 4 (tidSlot t) (sourceAt key) x).logContinuation (tidCore t)
      (((s.thread t).pipe.pend.find? fun p => p.reg = wReg reg && p.st = .grant key).elim [] fun p => [p.seq])

/-- The first reservation of the queue is granted: its thread holds the word, and the word's value is returned into its
register; `prev` is the core of the hold that has ended. A reservation that finds the word in error is held as a faulted access and grants nothing (10_traps.md R165). -/
def State.grantNext (s : State) (key : Nat) (prev : Option Cid) : List Reservation → State
  | [] => s
  | ⟨.peer m, _, enc⟩ :: rest =>
    if (s.poisonIn key 8).isSome then (s.output (.peerError m)).grantNext key prev rest
    else { s.output (.peerReply m (s.wordUnder enc key)) with held := s.held ++ [⟨key, .peer m, s.cycle, false, rest⟩] }
  | ⟨.saved p n, reg, enc⟩ :: rest =>
    let s1 : State := { s with held := s.held ++ [⟨key, .saved p n, s.cycle, false, rest⟩] }
    if ((s.partOf p).save.find n).any (·.forUnit reg) then s1
    else if (s.poisonIn key 8).isSome then
      (s.updSavedBy p (·.num = n) fun x => { x.faultLoad (wReg reg) (heldFault (.hold reg 0 0 0) x.holdAddr 0 0 ⟨0x0A, 0, x.holdAddr⟩ 0) with
        holding := none, holdAddr := 0 }).grantNext key prev rest
    else s1.updSavedBy p (·.num = n) (·.arrive (wReg reg) ((s.wordUnder enc key).setWidth 512))
  | ⟨.turn _, _, _⟩ :: rest => s.grantNext key prev rest
  | ⟨.thread t, reg, enc⟩ :: rest =>
    if (s.thread t).forUnit reg then { s with held := s.held ++ [⟨key, .thread t, s.cycle, false, rest⟩] }
    else if (s.poisonIn key 8).isSome then
      let a := (s.thread t).holdAddr
      (s.updThread t fun x => { x.faultLoad (wReg reg) (heldFault (.hold reg 0 0 0) a 0 0 ⟨0x0A, 0, a⟩ 0) with
        holding := none, holdAddr := 0 }).grantNext key prev rest
    else
      let x := s.wordUnder enc key
      let h : HeldWord := ⟨key, .thread t, s.cycle, false, rest⟩
      let s1 : State := { s with held := s.held ++ [h] }
      (s1.toldGrant key prev t reg x).arrive t reg x

/-- The hold of a word ends; accesses waiting behind it are performed in arrival order, and then the next reservation is granted; where the
turn of a unit's step has come, that waits until the step is made (R48, R49). -/
def State.endHold (s : State) (key : Nat) : State :=
  match s.held.find? (·.key = key) with
  | none => s
  | some h =>
    let s0 : State := { s with held := s.held.filter (·.key ≠ key) }
    let s1 := match h.holder with
      | .thread t => s0.updThread t fun t => { t with holding := none, holdAddr := 0 }
      | _ => s0
    let s2 := s1.waitListPass key
    if s2.held.any (·.key = key) then
      { s2 with held := updBy (fun x => decide (x.key = key)) (fun x => { x with queue := x.queue ++ h.queue }) s2.held }
    else s2.grantNext key h.holder.core h.queue

/-- The turns of thread `t`'s unit are over. -/
def State.endTurns (s : State) (t : Tid) : State :=
  ((s.held.filter (·.holder = .turn t)).map (·.key)).foldl State.endHold s
/-- A step of thread `t`'s unit waits at its memory, or has its turn there. -/
def State.turnTaken (s : State) (t : Tid) : Bool := s.waiters.any (fun w => w.owner == some t && w.op = .turn) || s.held.any (·.holder = .turn t)

/-! ### Task dispensers (05_work.md R84) and work lists (R86, R87) -/

def State.dispenser (s : State) (q : Nat) : Dispenser := (s.dispensers.find? (·.quad = q)).getD ⟨q, [], 0, 3⟩
def State.putDispenser (s : State) (d : Dispenser) : State := { s with dispensers := putBy (·.quad = d.quad) d s.dispensers }

/-- A task queued at the quad's dispenser: w1 the value, w2 the poster, w3 CLK, w4 the post count (R84). -/
def State.queueTask (s : State) (q : Nat) (value poster : Word) : State :=
  let d := s.dispenser q
  s.putDispenser { d with tasks := d.tasks ++ [(value, poster, s.clk 0, d.posts + 1)], posts := d.posts + 1 }

/-- The entries, base and capacity of a core's work list (R86). -/
def Core.wlCap (c : Core) : Nat := bits c.wlsize 16 0
def Core.wlOff (c : Core) : Nat := bits c.wlbase 20 4 * 16
def Core.wlBad (c : Core) : Bool := c.wlCap ≠ 0 && watchdogOff < c.wlOff + 16 * c.wlCap
/-- The byte in the core's memory of entry number `i` from the oldest. -/
def Core.wlSlot (c : Core) (i : Nat) : Nat := c.wlOff + 16 * ((c.wlHead + i) % c.wlCap)

/-- The newest entry of the list of the thread's core. -/
def State.newestEntry (s : State) (t : Thread) : Option (Word × Word) :=
  let c := s.coreOf t.cid
  if c.wlCount = 0 || c.wlBad then none
  else
    let k := locKey c.cid (c.wlSlot (c.wlCount - 1))
    some (s.mem.word k, s.mem.word (k + 8))

def State.dropNewest (s : State) (c : Cid) : State := s.updCore c fun x => { x with wlCount := x.wlCount - 1 }

/-- An entry appended as the newest, when there is room. -/
def State.appendEntry (s : State) (cid : Cid) (src : Tid) (e : Word × Word) : State :=
  let c := s.coreOf cid
  let off := c.wlSlot c.wlCount
  let s1 := { s with mem := writeWords s.mem (locKey cid off) [e.1, e.2] }
  (s1.traced cid src 10 off 16).updCore cid fun x => { x with wlCount := x.wlCount + 1 }

/-- The register that a thread parked at WFW waits to write its status into. -/
def Thread.workReg (t : Thread) : Option Reg :=
  match t.pipe.park with
  | some (.work d) => some d
  | _ => none
def Thread.isWaitingWork (t : Thread) : Bool := t.workReg.isSome

/-- Threads parked at WFW that `p` picks, the one that parked first in front (R83). -/
def firstWaiting (s : State) (p : Thread → Bool) : Option Thread :=
  (s.threads.filter (fun t => t.active && t.isWaitingWork && (s.partOf t.part).state = 0 && p t)).foldl
    (fun best t => match best with
      | none => some t
      | some b => if t.pipe.parkedAt < b.pipe.parkedAt || (t.pipe.parkedAt = b.pipe.parkedAt && t.pipe.parkSeq < b.pipe.parkSeq) then some t
                  else best) none

/-- WFW's writes: w1 to w4 and then the status (R83). -/
def Thread.takeWork (t : Thread) (d : Reg) (ws : Word × Word × Word × Word) (status : Word) : Thread :=
  ((((t.wr 1 ws.1).wr 2 ws.2.1).wr 3 ws.2.2.1).wr 4 ws.2.2.2).wr d status

/-- A waiting post is made: its thread's instruction, or the effect, is complete. -/
def Waiter.posted (w : Waiter) (s : State) : State :=
  match w.op with
  | .effect e own keep => s.effectStored e own keep
  | _ => s.finishThread w.owner

/-- The waiting posts of a quad's dispenser, in order, while there is room (R84). -/
def admitPosts (q : Nat) : List Waiter → State → State
  | [], s => s
  | w :: ws, s =>
    match w.posting with
    | some (q', poster) =>
      if q' = q && w.retryAt.isNone && (s.dispenser q).tasks.length < 16 then
        admitPosts q ws (w.posted (({ s with waiters := s.waiters.erase w }).queueTask q (w.data.setWidth 64) poster))
      else admitPosts q ws s
    | none => admitPosts q ws s

/-- The item that a thread takes at WFW (R83): the newest entry of its core's list, else its quad's oldest task. -/
def State.takeItem (s : State) (t : Thread) : Option ((Word × Word × Word × Word) × Word × State) :=
  match s.newestEntry t with
  | some e => some ((e.1, e.2, 0, 0), 1, s.dropNewest t.cid)
  | none =>
    let d := s.dispenser (cidQuad t.cid)
    match d.tasks with
    | [] => none
    | x :: rest => some (x, 2, admitPosts (cidQuad t.cid) s.waiters (s.putDispenser { d with tasks := rest }))

/-- A work-list entry or a task reaches a slot (10_traps.md R174, kind 9), its words and its status in continuation records (log entry 22). -/
def State.incomingWork (s : State) (c : Cid) (slot : BitVec 3) (ws : Word × Word × Word × Word) (status : Word) :
    ((Word × Word × Word × Word) × Word) × State :=
  let (xs, s1) := s.incomingWords c slot 9 allOnes [ws.1, ws.2.1, ws.2.2.1, ws.2.2.2, status]
  (((xs.getD 0 0, xs.getD 1 0, xs.getD 2 0, xs.getD 3 0), xs.getD 4 0), s1)

/-- Threads parked at WFW are given what is available, first parked first (R83). DESIGN CHOICE (log entry 84): at the end of the cycle in which
it came. -/
def State.deliverWork (s : State) (q : Nat) : Nat → State
  | 0 => s
  | n + 1 =>
    match firstWaiting s (fun t => cidQuad t.cid = q && (s.takeItem t).isSome) with
    | none => s
    | some t =>
      match s.takeItem t with
      | none => s
      | some (ws, status, s1) =>
        let (ws, s2) := s1.incomingWork t.cid t.slot ws status
        (s2.updThread t.tid fun x => (x.takeWork (t.workReg.getD 0) ws.1 ws.2).finish).deliverWork q n

/-- The doorbell at whose memory a post waits: the word named, or for a post through the alias that of the quad's first core, the spec
naming none (DESIGN CHOICE, log entry 66). -/
def Place.bellIn (pl : Place) (q : Nat) : Place :=
  match pl.special with
  | .doorbell _ false => pl
  | _ =>
    let c := mkCid (BitVec.ofNat 7 (q / 32 * 2)) (BitVec.ofNat 6 (q % 32 * 2))
    ⟨.loc c, locKey c doorbellOff, doorbellOff, 0, .doorbell q false⟩

/-- A post at a quad's doorbell (R84): queued, or waiting on the list of that local memory while 16 tasks are queued. The
post answers whether it was queued. -/
def State.post (s : State) (q : Nat) (w : Waiter) (poster : Word) : Bool × State :=
  if (s.dispenser q).tasks.length < 16 then
    (true, s.queueTask q (w.data.setWidth 64) poster)
  else (false, s.enlist { w with op := .post q poster, pl := w.pl.bellIn q })

/-! ### The watchdog word (10_traps.md R176) -/

/-- Nanoseconds of run time that the watchdog has counted. -/
def Partition.wdCount (p : Partition) (cycle : Nat) : Nat :=
  if p.state = 0 then p.wdRun + (cycle - p.wdStart) / 2 else p.wdRun

/-- A gang stop of partition `p`, if it runs: HALTED (10_traps.md R173). -/
def State.gangStop (s : State) (p : BitVec 6) : State :=
  if (s.partOf p).live && (s.partOf p).state = 0 then (s.haltThreads p).updPart p fun x => x.halted (x.wdCount s.cycle) else s

/-- The nanoseconds left, which a plain load of the watchdog word returns; 0 with a limit of 0. -/
def Partition.wdLeft (p : Partition) (cycle : Nat) : Word :=
  if p.wdLimit = 0 then 0 else BitVec.ofNat 64 (p.wdLimit.toNat - p.wdCount cycle)

/-- An STF to the watchdog word restarts the count. -/
def Partition.wdRestart (p : Partition) (cycle : Nat) : Partition :=
  if p.wdLimit = 0 then p else { p with wdRun := 0, wdStart := cycle, wdOnce := false }

/-! ### Range scoreboard (06_ordering.md R104) -/

/-- Ranges of addresses in one space overlap. -/
def overlaps (a na b nb : Nat) : Bool := a / 2 ^ 62 = b / 2 ^ 62 && a < b + nb && b < a + na

/-- Bytes that a job moves in all. -/
def Job.bytes (j : Job) : Nat := 64 * j.granules

/-- An access of the core to `n` bytes at the resolved address `a` must wait for a job: a load for a write footprint, a store
for any footprint; COLLs in the queue hold theirs. -/
def Core.scoreboard (c : Core) (a : Word) (n : Nat) (store : Bool) : Bool :=
  c.jobs.any (fun j => overlaps a.toNat n j.dst.toNat j.bytes ||
    (store && !j.gather && overlaps a.toNat n j.src.toNat j.bytes)) ||
  c.cq.any (fun q =>
    let len := bits q.word3 28 16 * (if bits q.word3 3 0 = 0 || bits q.word3 3 0 = 3 then 4 else 8)
    overlaps a.toNat n q.dst.toNat len || (store && overlaps a.toNat n q.src.toNat len))

end Sys2Proof.Machine
end

