-- ==== Sys2Proof/Machine/Barrel.lean ====
section
/-! DEFINITION. The barrel of a core: which slot issues (04_threads.md R56 to R58, R61), the refill of the energy budget
(R64), and the fetch of the word at the pc (02_module.md R18; 08_encoding.md R126, R128) or of the frame's captured word with
the pass's strides (01_tutorial.md R11). -/
namespace Sys2Proof.Machine

/-! ### Fetch -/

/-- The word at `pc`, or the fetch's cause (08_encoding.md R141). A word that the instruction cache holds may be returned in
place of the one in memory (02_module.md R18), by a free choice. -/
def State.fetch (s : State) : Except Cause Half :=
  match resolve s s.th.agent .fetch 4 s.th.pc with
  | .error c => .error c
  | .ok pl =>
    match dataError s pl s.th.pc 4 with
    | some c => .error c
    | none =>
      let w := s.halfAt pl
      match s.core.icache.find? (·.1 = pl.key) with
      | none => .ok w
      | some (_, old) => if old = w then .ok w else if Config.staleFetch s.freeCtr then .ok old else .ok w

/-- The fetched word is in the core's instruction cache, 8,192 words at most (02_module.md). -/
def State.cached (s : State) (w : Half) : State :=
  match resolve s s.th.agent .fetch 4 s.th.pc with
  | .error _ => s
  | .ok pl =>
    let s1 : State := { s with freeCtr := s.freeCtr + 1 }
    if s.core.icache.any (·.1 = pl.key) then s1
    else s1.mapCore fun c => { c with icache := ((pl.key, w) :: c.icache).take 8192 }

/-! ### Frame strides (R11) -/

/-- Which of the fields d, a and b (bits 25:22, 21:18, 17:14) an instruction allowed in a frame has and uses as registers. -/
def stridedFields : Instr → Bool × Bool × Bool
  | .add .. | .sub .. | .and .. | .or .. | .xor .. | .shl .. | .shr .. | .sra .. | .slt .. | .sltu .. | .min .. | .max ..
  | .sel .. => (true, true, true)
  | .clz .. | .ctz .. | .popc .. => (true, true, false)
  | .addi .. | .andi .. | .ori .. | .xori .. | .slti .. | .shli .. | .shri .. | .srai .. => (true, true, false)
  | .lui .. | .luih .. => (true, false, false)
  | .vadd .. | .vsub .. | .vmul .. | .vfma .. | .vmin .. | .vmax .. | .vand .. | .vor .. | .vxor .. | .vshl .. | .vshr ..
  | .vcmp .. | .vbfly .. => (true, true, true)
  | .vsel .. | .vexp2 .. | .vlog2 .. | .vrcp .. | .vrsq .. => (true, true, false)
  | .mand .. | .mor .. => (true, true, true)
  | .mnot .. => (true, true, false)
  | .mfirst .. => (true, true, true)
  | _ => (false, false, false)

/-- A 4-bit field of a word advanced by `n` modulo 16. -/
def strideField (w : Half) (lo n : Nat) : Half := setBits w (lo + 3) lo (bits w (lo + 3) lo + n)

/-- The captured word as pass `p` executes it (R11). -/
def stridedWord (i : Instr) (w : Half) (x : Word) : Half :=
  let p := rptPass x
  let (d, a, b) := stridedFields i
  let w1 := if d then strideField w 22 (p * bits x 15 12) else w
  let w2 := if a then strideField w1 18 (p * bits x 11 8) else w1
  if b then strideField w2 14 (p * bits x 7 4) else w2

/-- The word that the thread executes next: the frame's captured word with its strides, or the word at the pc. -/
def State.nextWord (s : State) : Except Cause Half :=
  if s.th.pipe.inFrame then
    let x := s.th.trap.rptst
    let w := (s.th.pipe.frame[rptPos x]?).getD 0
    match decode w with
    | .error _ => .ok w
    | .ok i => .ok (stridedWord i w x)
  else s.fetch

/-- The state in which the word `w` executes: fetched words enter the instruction cache. -/
def State.withFetched (s : State) (w : Half) : State := if s.th.pipe.inFrame then s else s.cached w

/-! ### Eligibility -/

/-- The cycle until which the core's die is throttled (02_module.md R29). -/
def State.throttledUntil (s : State) (c : Cid) : Nat := s.modl.throttled[(cidDie c).toNat]'(cidDie c).isLt

/-- The thread itself may issue, the interval, the budget and the gang condition apart (R56). -/
def Thread.ready (t : Thread) (cycle : Nat) : Bool :=
  t.active && t.pipe.park.isNone && (t.pipe.trapDue.isNone || !t.mustWait) && !t.eventWaits &&
  (t.pipe.trapDue.isSome || (match t.exhausted with
   | none => true
   | some p => p.st = .faulted)) &&
  !t.pipe.mmaWait && t.pipe.matrixWait.isNone && t.pipe.yieldUntil ≤ cycle

/-- The core has issued in this cycle already (R56). -/
def Core.spent (c : Core) (cycle : Nat) : Bool := c.issued.any (· = some cycle)

/-- The slot has not issued in any of the three preceding cycles (R56). -/
def Core.rested (c : Core) (slot : BitVec 3) (cycle : Nat) : Bool :=
  match c.issued[slot.toNat]'slot.isLt with
  | none => true
  | some n => n + Config.issueInterval ≤ cycle

/-- The instruction that the thread executes next, when it is one. -/
def State.nextInstr (s : State) (t : Thread) : Option Instr :=
  match (s.focus t.tid).nextWord with
  | .error _ => none
  | .ok w => (decode w).toOption

/-- The slot of `x` is out of budget (R66): it may not issue its next vector instruction before the next refill; in a gang that is the
instruction of the leader `l`. -/
def State.outOfBudget (s : State) (l x : Thread) : Bool :=
  x.pipe.starved || x.pipe.park = some .budget ||
  (x.pipe.vecIssued && ((s.nextInstr l).bind x.charge).any (fun u => !x.affords u))

/-- A slot that is out of budget stays so whatever then changes its pc, its masks or its word (R66): it issues nothing before the next
refill. -/
def State.keepStarved (s : State) (t : Tid) : State :=
  let x := s.thread t
  if x.active && x.pipe.trapDue.isNone && s.outOfBudget (s.thread (x.leader.getD t)) x then s.updThread t Thread.starve else s

/-- The slot is eligible (R56, R61): its core is allowed to issue and has not issued in this cycle, it is no follower, and every member
of its gang could issue too. -/
def State.eligible (s : State) (t : Thread) : Bool :=
  let can (x : Thread) : Bool :=
    let c := s.coreOf x.cid
    x.ready s.cycle && (s.partOf x.part).state = 0 && s.throttledUntil x.cid ≤ s.cycle && c.testing.isNone && !c.stopped &&
    !c.spent s.cycle && c.rested x.slot s.cycle && (x.pipe.trapDue.isSome || !s.outOfBudget t x)
  match t.gang with
  | none => can t
  | some (l, k) => l = t.tid && (s.gangOf l).length = 2 ^ k.toNat && (s.gangOf l).all can

/-- The first eligible slot of the core, upward modulo 8 from the slot after the one that issued last (R56). -/
def State.nextSlot (s : State) (c : Cid) : Option Tid :=
  let last := (s.coreOf c).last.toNat
  (List.range 8).map (fun k => mkTid c (BitVec.ofNat 3 (last + 1 + k))) |>.find? (fun t => s.eligible (s.thread t))

/-! ### The energy budget (R64) and the cycle -/

/-- The slot after a refill whose share is `share`: an active one receives it, and a wait for budget ends (R64, R66). -/
def Thread.refilled (t : Thread) (share : Nat) : Thread :=
  { t with pipe := { t.pipe with
    ebud := if t.active then BitVec.ofNat 64 share else t.pipe.ebud
    vecIssued := false, starved := false
    park := if t.pipe.park = some .budget then none else t.pipe.park } }

/-- Every slot of the core is refilled. -/
def State.refill (s : State) (c : Cid) : State :=
  let share := (bits (s.coreOf c).eallow 31 0) / (s.coreThreads c).length
  let f (t : Thread) : Thread := if t.cid = c then t.refilled share else t
  let s0 := s.updCore c fun x => { x with refills := s.cycle / Config.refillInterval }
  { s0 with th := f s0.th, others := s0.others.map f }

/-- The core has a refill to come in this cycle. -/
def State.refillDue (s : State) (c : Cid) : Bool :=
  s.cycle % Config.refillInterval = 0 && (s.coreOf c).refills < s.cycle / Config.refillInterval

/-- ENERGY_REFILL (R64): core `c` refills, in a cycle whose count is a multiple of 1,024. -/
def execEnergyRefill (c : Cid) (s : State) : Result := .next (if s.refillDue c then s.refill c else s)

/-- The cores whose slots hold a thread, or have held one. -/
def State.busyCores (s : State) : List Cid := (s.threads.map (·.cid)).eraseDups

/-- The core is allowed to issue in this cycle: its partition runs, and it is neither throttled, nor under test, nor stopped. -/
def State.mayIssue (s : State) (c : Core) : Bool :=
  c.owner.any (fun p => (s.partOf p).state = 0) && s.throttledUntil c.cid ≤ s.cycle && c.testing.isNone && !c.stopped

/-- The quads of which a thread is parked at WFW. -/
def State.waitingQuads (s : State) : List Nat := ((s.threads.filter (·.isWaitingWork)).map (cidQuad ·.cid)).eraseDups

/-- One cycle passes. The items that its posts and entries have made available go to the threads parked at WFW (05_work.md R83); in a cycle
whose count is a multiple of 1,024 every core refills (R64); a slot that is out of budget stays so until then (R66). Each core whose arrivals are logged, or delivered from a log, counts a
cycle in which it is allowed to issue (10_traps.md R174). -/
def State.tickCycle (s : State) : State :=
  let s0 := s.waitingQuads.foldl (fun s q => s.deliverWork q 32) s
  let s1 : State := { s0 with cycle := s.cycle + 1 }
  let s2 := s1.eachCore fun c =>
    if (c.log.enabled || c.log.replay != []) && s1.mayIssue c then { c with log := { c.log with cyc := c.log.cyc + 1 } } else c
  let s3 := if s2.cycle % Config.refillInterval = 0 then s2.busyCores.foldl State.refill s2 else s2
  (s3.activeThreads.map (·.tid)).foldl State.keepStarved s3

/-- The current thread's slot issues in this cycle, and its core remembers it (R56). -/
def State.issues (s : State) : State :=
  s.mapCore fun c => { c with last := s.th.slot, issued := c.issued.set s.th.slot.toNat (some s.cycle) }

/-- Slot `t` issues: it becomes current. -/
def State.select (s : State) (t : Tid) : State := (s.focus t).issues

end Sys2Proof.Machine
end

