-- ==== Sys2Proof/Machine/Access.lean ====
section
/-! DEFINITION. A thread's accesses: what makes one wait in issue (01_tutorial.md R9; 06_ordering.md R92, R94, R100, R104), when
an earlier fault is reported (10_traps.md R165, R166), loads and stores (21 R350, 22 R373), and the move of a roaming thread
(04_threads.md R67). -/
namespace Sys2Proof.Machine

/-- A held access that is a fault, not a wait, and neither asleep nor about to be issued again. -/
def HeldAccess.isFault (h : HeldAccess) : Bool := !h.isWait && h.phase = .live

/-- The faulted access is a plain one (R165). -/
def HeldAccess.plain (h : HeldAccess) : Bool :=
  match h.instr with
  | .ld _ _ _ x _ _ | .lds _ _ _ x _ _ | .st _ _ _ x _ => x = 0
  | .far .. => false
  | _ => true

/-- The cause with which the thread's first faulted access is reported (R166). -/
def Thread.faultCause (t : Thread) : Option Cause := (t.pipe.held.find? (·.isFault)).map fun h => ⟨h.code, h.detail, h.tval⟩

/-- A fault is reported at an access to the same page, or, for a plain access that faulted late, at the next plain access. -/
def State.reportAt (s : State) (addr : Word) (plain : Bool) : Option Cause :=
  if s.th.pipe.held.any (fun h => h.isFault && (s.samePage h.addr addr || (plain && h.plain))) then s.th.faultCause else none

/-- Requests of the thread that count as relaxed accesses (R94). -/
def WaitOp.relaxed : WaitOp → Bool
  | .store kind _ => kind = 1
  | .far _ => true
  | _ => false

/-- Relaxed accesses of the thread outstanding (R9): those waiting at a memory, and the faulted ones (R166). -/
def State.relaxedOut (s : State) : Nat :=
  (s.waiters.filter (fun w => w.owner == some s.th.tid && w.op.relaxed)).length +
  (s.th.pipe.held.filter (fun h => !h.isWait && !h.plain)).length

/-- The thread's HOLD waits for its grant. -/
def State.awaiting (s : State) : Bool :=
  s.th.holding.isSome && !s.held.any (fun h => some h.key == s.th.holding && h.holder = .thread s.th.tid)

/-- A plain access of the thread is still outstanding (R9, R48, R92): it waits at a memory, it is a HOLD without its grant, or a store
that is not acknowledged. -/
def State.plainPending (s : State) : Bool :=
  s.waiters.any (fun w => w.owner == some s.th.tid && !w.op.relaxed) || s.awaiting || s.th.pipe.plainOut ||
  s.th.pipe.pend.any (fun p => match p.st with
    | .grant _ | .full _ _ => true
    | _ => false)

/-- A RECVV of the thread, or an instruction of the prefix-and-KV unit, has not written its result: later accesses wait for it
(R100; 12_prefix_index.md R199). -/
def State.recvPending (s : State) : Bool :=
  s.th.pipe.pend.any (fun p => match p.st with
    | .message _ | .unit .. => true
    | _ => false)

/-- Traffic is on its way between core `c` and the core whose local memory or shadow slice holds the byte: an access of `c`'s would overtake it,
or its reply would (02_module.md R26). -/
def State.pathTaken (s : State) (c : Cid) (key : Nat) : Bool :=
  let m := memoryOf key
  let b : Cid := BitVec.ofNat 13 m.2.1
  (m.1 = 0 || m.1 = 3) && (s.pathBusy c b s.stamp || s.pathBusy b c s.stamp)

/-- An access of `n` bytes at the place must wait in issue (R9, R92, R100; 06_ordering.md R94: accesses to a common byte keep their order,
those behind a HOLD that awaits its grant too). -/
def State.accessWaits (s : State) (relaxed : Bool) (key n : Nat) : Bool :=
  s.recvPending || s.pathTaken s.th.cid key ||
  (if relaxed then 8 ≤ s.relaxedOut else s.plainPending) ||
  (s.awaiting && s.th.holding.any fun k => k < key + n && key < k + 8) ||
  s.waiters.any (fun w => w.owner == some s.th.tid && w.place < key + n && key < w.place + w.size)

/-- The resolved form of an address of the current thread (R33). -/
def State.absAddr (s : State) (a : Word) : Word := absolute s.part s.th.agent a

/-- The core's range scoreboard stalls the access (R104). -/
def State.stalled (s : State) (a : Word) (n : Nat) (store : Bool) : Bool := s.core.scoreboard (s.absAddr a) n store

/-- A plain store of the thread is outstanding until the owning memory acknowledges it (R92). -/
def State.plainStored (s : State) : State := s.mapTh fun t => { t with pipe := { t.pipe with plainOut := true } }

/-- The PCIe port that carries the host-memory stores of a core's die (R96), as a bit. -/
def portBit (c : Cid) : BitVec 2 := if (cidDie c).toNat < 8 then 1 else 2

/-- The place of the next store to peer memory among those of the module that are not acknowledged. -/
def State.nextPosted (s : State) : Nat := ((s.threads.flatMap (·.pipe.peerPosts)).map (·.order)).foldl Nat.max 0 + 1

/-- A store of `n` bytes to host or peer memory is about to be posted (R96, R97): a peer's is kept with what it will overwrite, in case
its link goes down (18_host.md R297). -/
def State.notePosted (s : State) (pl : Place) (addr : Word) (n : Nat) : State :=
  match pl.space with
  | .host => s.mapTh fun t => { t with pipe := { t.pipe with posted := t.pipe.posted ||| portBit t.cid } }
  | .peer m =>
    let old := (s.under pl.enc pl.key n).readN pl.key n
    s.mapTh fun t => { t with pipe := { t.pipe with
      peerPosts := t.pipe.peerPosts ++ [⟨m, addr, pl.key, n, old, pl.enc, s.isFull pl.key, s.nextPosted⟩] } }
  | _ => s

/-- Stores of the thread to host or peer memory are not complete (R97). -/
def Thread.postsOut (t : Thread) : Bool := t.pipe.posted ≠ 0 || t.pipe.peerPosts ≠ []

/-- A value read at the place; one from outside the core is a remote load reply (10_traps.md R174, kind 2). -/
def State.reply (s : State) (pl : Place) (x : Word) : Word × State :=
  if pl.space = .loc s.th.cid then (x, s) else s.incomingFrom 2 (sourceAt pl.key) x

/-- What a load of `n` bytes returns: at a doorbell the number of queued tasks (05_work.md R84), at the watchdog word the
nanoseconds left (10_traps.md R176), elsewhere the bytes. -/
def State.loadBytes (s : State) (pl : Place) (n : Nat) : Nat :=
  match pl.special with
  | .doorbell q _ => (s.dispenser q).tasks.length / 256 ^ (pl.off % 8) % 256 ^ n
  | .watchdog => ((s.part.wdLeft s.cycle).toNat) / 256 ^ (pl.off % 8) % 256 ^ n
  | _ => s.bytesAt pl n

/-- The value that LD or LDS writes (R350). -/
def extend (sgn : Bool) (n : Nat) (x : Nat) : Word :=
  if sgn then ((BitVec.ofNat (8 * n) x).signExtend 64) else BitVec.ofNat 64 x

/-- A relaxed load that faults: it stays among the outstanding accesses, and its destination stays pending (R166). -/
def State.faultedLoad (s : State) (i : Instr) (d la : Reg) (addr : Word) (c : Cause) : State :=
  (s.wait d la .faulted).mapTh (·.hold (heldFault i addr 0 la.toNat c s.th.ident.icnt))

/-- A relaxed store that faults (R166). -/
def State.faultedStore (s : State) (i : Instr) (addr data : Word) (c : Cause) : State :=
  s.mapTh (·.hold (heldFault i addr data 0 c s.th.ident.icnt))

/-- The causes that a relaxed access reports late: page fault and uncorrectable error (R166). -/
def Cause.late (c : Cause) : Bool := c.code = 0x07 || c.code = 0x08 || c.code = 0x0A

/-- The conditions of R67 for a move, apart from ROAM, VDIRTY and the address. -/
def State.mayMove (s : State) : Bool :=
  let t := s.th
  !t.st tSPEC && !t.st tBOOST && !t.bound && t.gang.isNone && t.holding.isNone &&
  !s.core.jobs.any (·.owner = t.tid)

/-- The thread's outstanding accesses and pending results are done once those in hand are written (R67 step 1); accesses held over a
trap sleep with the thread. -/
def State.settled (s : State) : Bool :=
  !s.plainPending && !s.waiters.any (fun w => w.owner == some s.th.tid) &&
  s.th.pipe.held.all (·.phase = .asleep) && !s.th.pipe.pend.any (fun p => p.unwritten && !p.st.inHand) &&
  !s.core.vq.any (·.owner == s.th.tid)

/-- The thread packs itself into one message toward `target`, with the access it carries, and its home slot stays reserved
(R67 step 2). What it issues with is executed where it arrives: the places that this took in its windows are given back until then. -/
def State.depart (s : State) (target : Cid) (access : Option Instr) (status : Option Reg) : State :=
  let t := ({ s.th with pipe := { s.th.pipe with pend := s.th.pipe.pend.map Pending.untick } } : Thread).writeBack
  let s1 : State := ({ s with moves := s.moves ++ [⟨t, target, access, status, none, false, s.stamp⟩] } : State).stamped
  { s1 with th := { t with pipe := { t.pipe with park := some .moving, parkedAt := s.cycle, parkSeq := s.nextParked } } }

/-- Something that is done once the thread has settled: a faulted access keeps it from that and is reported (10_traps.md R166). -/
def State.whenSettled (s : State) (f : State → Effort) : Effort :=
  match s.th.faultCause with
  | some c => .trap c
  | none => if s.settled then f s else .parked (s.parkOn .issue)

/-- The core whose local memory a roaming thread's plain access takes it to (R67). -/
def State.roamTarget (s : State) (relaxed : Bool) (pl : Place) : Option Cid :=
  match pl.space with
  | .loc c =>
    if !relaxed && s.th.st tROAM && c ≠ s.th.cid && !s.th.st tVDIRTY && s.mayMove then some c else none
  | _ => none

/-- LD and LDS (R350): the effect of a load of `n` bytes at `addr`. -/
def loadBody (i : Instr) (sgn : Bool) (n : Nat) (relaxed : Bool) (d la : Reg) (addr : Word) (s : State) : Effort :=
  match s.reportAt addr (!relaxed) with
  | some c => .trap c
  | none =>
    match resolve s s.th.agent (if relaxed then .loadRx else .load) n addr with
    | .error c => if relaxed && c.late then .done (s.faultedLoad i d la addr c).advance else .trap c
    | .ok pl =>
      if s.accessWaits relaxed pl.key n || s.stalled addr n false then .parked (s.parkOn .issue)
      else
        match s.roamTarget relaxed pl with
        | some c => s.whenSettled fun s => .parked (s.depart c (some i) none)
        | none =>
          match (if pl.special = .none then dataError s pl addr n else none) with
          | some c => if relaxed then .done (s.faultedLoad i d la addr c).advance else .trap c
          | none =>
            let (x, s1) := s.reply pl (extend sgn n (s.loadBytes pl n))
            .done (s1.result d la x).advance

/-- The waiting form of a store of the current thread. -/
def storeWaiter (s : State) (pl : Place) (addr : Word) (n : Nat) (op : WaitOp) (data : Vec) (reg : Reg)
    (rec : Option Nat) : Waiter :=
  ⟨some s.th.tid, pl, n, addr, op, data, reg, rec, none, s.th.ident.icnt⟩

/-- The old-value record of a logged store is reserved at issue, when the store logs one (15_time_axes.md R246). -/
def State.reserveFor (s : State) (log : Bool) (addr : Word) (fev : Bool) : Option Nat × State :=
  if log then let (r, s1) := s.reserveOld (s.absAddr addr) fev; (some r, s1) else (none, s)

/-- ST (R373): the effect of a store of the `n` low bytes of `data` at `addr`. -/
def storeBody (i : Instr) (n : Nat) (relaxed : Bool) (data addr : Word) (s : State) : Effort :=
  match s.reportAt addr (!relaxed) with
  | some c => .trap c
  | none =>
    match resolve s s.th.agent .store n addr with
    | .error c => if relaxed && c.late then .done (s.faultedStore i addr data c).advance else .trap c
    | .ok pl =>
      let log := s.th.logs && pl.space ≠ .host
      if s.accessWaits relaxed pl.key n || s.stalled addr n true then .parked (s.parkOn .issue)
      else
        match s.roamTarget relaxed pl with
        | some c => s.whenSettled fun s => .parked (s.depart c (some i) none)
        | none =>
          if log && s.th.rw.free = 0 then .parked (s.parkOn (.stack 1))
          else if n < 8 && (s.poisonIn pl.key n).isSome then
            let c := causeOf 0x0A addr
            if relaxed then .done (s.faultedStore i addr data c).advance else .trap c
          else
            let (rec, s1) := s.reserveFor log addr false
            let kind : BitVec 4 := if relaxed then 1 else 0
            let w := storeWaiter s1 pl addr n (.store kind (BitVec.ofNat 2 (sizeCode n))) (data.setWidth 512) 0 rec
            let s2 := (s1.notePosted pl addr n).request w
            .done (if relaxed then s2 else s2.plainStored).advance

/-- The address of a memory operand: w[a] plus the scaled, sign-extended immediate (08_encoding.md R131). -/
def memAddr (s : State) (a : Reg) (imm : BitVec 10) (n : Nat) : Word := s.rd a + sx imm * BitVec.ofNat 64 n

/-- LD (R350): loads a zero-extended byte, quarter, half or word. -/
def execLd (d a : Reg) (sz : BitVec 2) (x : BitVec 1) (imm : BitVec 10) (l : Reg) (s : State) : Result :=
  let i : Instr := .ld d a sz x imm l
  issue i s none (wRegs [d, a]) fun s => loadBody i false (2 ^ sz.toNat) (x = 1) d l (memAddr s a imm (2 ^ sz.toNat)) s

/-- LDS (R350): loads a sign-extended byte, quarter or half. -/
def execLds (d a : Reg) (sz : BitVec 2) (x : BitVec 1) (imm : BitVec 10) (l : Reg) (s : State) : Result :=
  let i : Instr := .lds d a sz x imm l
  issue i s none (wRegs [d, a]) fun s => loadBody i true (2 ^ sz.toNat) (x = 1) d l (memAddr s a imm (2 ^ sz.toNat)) s

/-- ST (R373): stores the low bytes of w[d]. -/
def execSt (d a : Reg) (sz : BitVec 2) (x : BitVec 1) (imm : BitVec 10) (s : State) : Result :=
  let i : Instr := .st d a sz x imm
  issue i s none (wRegs [d, a]) fun s => storeBody i (2 ^ sz.toNat) (x = 1) (s.rd d) (memAddr s a imm (2 ^ sz.toNat)) s

end Sys2Proof.Machine
end

