-- ==== Sys2Proof/Machine/Launches.lean ====
section
/-! DEFINITION. Launch records and their checks (05_work.md R72, R80), population of a slot (04_threads.md R53, R64; 05_work.md
R77), and the writes that the front end makes on behalf of a partition (R79; 03_addresses.md R45). -/
namespace Sys2Proof.Machine

/-! ### Writes by the front end and other units -/

/-- The front end as an agent of partition `p`: logical core (0, 0), not held to user pages (log entry 16). -/
def State.partAgent (s : State) (p : BitVec 6) : Agent := ⟨mkTid ((s.partOf p).home 0 0) 0, p, 0, 0, false⟩

/-- An STF that the device performs on behalf of another agent (R45), because of an instruction of thread `cause` or of none: at a doorbell it posts a task with `poster` in w2 (R84),
at the watchdog word it restarts the count (R176). -/
def State.unitStf (s : State) (ag : Agent) (cause : Option Tid) (addr v poster : Word) : Except Cause State :=
  match resolve s ag .stf 8 addr with
  | .error c => .error c
  | .ok pl =>
    let w : Waiter := ⟨none, pl, 8, addr, (cause.map .signal).getD .stf, v.setWidth 512, 0, none, none, 0⟩
    match pl.special with
    | .watchdog => .ok (s.updPart ag.part (·.wdRestart s.cycle))
    | .doorbell q _ => .ok (s.post q w poster).2
    | .none | .peerDoorbell => .ok (s.request w)

/-- A completion word (R79): written as an STF, or to host memory as a store. One that cannot be written is dropped (log entry
17); at a special word nothing is written, and it neither posts a task nor restarts the watchdog (R85; log entry 16). -/
def State.complete (s : State) (ag : Agent) (cause : Option Tid) (addr v : Word) : State :=
  match resolve s ag .stf 8 addr with
  | .ok pl => if pl.special = .none then (s.unitStf ag cause addr v allOnes).toOption.getD s else s
  | .error _ =>
    match resolve s ag .store 8 addr with
    | .ok pl => if pl.space = .host then s.putBytes pl 8 v.toNat else s
    | .error _ => s

/-! ### Launch records (R72) -/

/-- Word `n` of a record. -/
def recWord (ws : List Word) (n : Nat) : Word := (ws[n]?).getD 0

def recPrio (ws : List Word) : Nat := bits (recWord ws 1) 27 24
def recQuota (ws : List Word) : Nat := bits (recWord ws 1) 18 16 + 1
def recSkip (ws : List Word) : Bool := bit (recWord ws 1) 15
def recShape (ws : List Word) : Bool := bit (recWord ws 1) 14
def recAny (ws : List Word) : Bool := bit (recWord ws 1) 13
def recHM1 (ws : List Word) : Nat := bits (recWord ws 1) 12 6
def recWM1 (ws : List Word) : Nat := bits (recWord ws 1) 5 0

/-- Width field `n` of a WIDW value (R73). -/
def widthOf (widw : Word) (n : Nat) : Nat := bits widw (7 * n + 6) (7 * n)
/-- The sum of the width fields below `n`. -/
def widthSum (widw : Word) : Nat → Nat
  | 0 => 0
  | n + 1 => widthSum widw n + widthOf widw n

/-- The record is refused as BAD_RECORD (R72). -/
def badRecord (ws : List Word) : Bool :=
  let sum := widthSum (recWord ws 2) 6
  12 ≤ recPrio ws || (List.range 6).any (fun n => 64 < widthOf (recWord ws 2) n) || 64 < sum
  || recWord ws 3 = 0 || (sum < 64 && 2 ^ sum < (recWord ws 3).toNat)
  || (recShape ws && (bits (recWord ws 9) 63 32 = 0 || bits (recWord ws 9) 31 0 = 0))
  || bits (recWord ws 0) 1 0 ≠ 0 || bits (recWord ws 10) 1 0 ≠ 0 || bits (recWord ws 11) 1 0 ≠ 0
  || bits (recWord ws 1) 63 28 ≠ 0 || bits (recWord ws 1) 23 19 ≠ 0 || bits (recWord ws 2) 63 42 ≠ 0
  || recWord ws 12 ≠ 0 || recWord ws 13 ≠ 0 || recWord ws 14 ≠ 0 || recWord ws 15 ≠ 0

/-- The rectangle does not fit the partition (R72). -/
def noFit (p : Partition) (ws : List Word) : Bool := !recAny ws && (p.wm1.toNat < recWM1 ws || p.hm1.toNat < recHM1 ws)

/-- What a LAUNCH answers: 0 queued, or the refusal status (R80, R82). DESIGN CHOICE (log entry 68): a record that is refused for several
reasons gets BAD_RECORD before NO_FIT, and NO_FIT before CONTEXT_CLOSING, the spec giving no order. -/
def recordStatus (p : Partition) (ws : List Word) : Word :=
  if badRecord ws then 2 else if noFit p ws then 3 else if !p.live then 4 else 0

/-- The launch queued in its partition, at its record's priority; its opening rounds start at its first dispatch (R76). -/
def State.submit (s : State) (p : BitVec 6) (caller : Option Tid) (ws : List Word) : State :=
  { s with
    launches := s.launches ++ [⟨BitVec.ofNat 32 s.nextId, p, ws, s.cycle, s.cycle, false, none, some (0, 0), 0, false, caller⟩]
    nextId := s.nextId + 1 }

/-- LAUNCH by a thread or a command: the record is queued, or refused with its status in its completion word (R82). DESIGN CHOICE (log entry
16): the completion word of a refused record is written for the agent given, with a thread's LAUNCH for that thread at its own core and
privilege. -/
def State.launchRecord (s : State) (ag : Agent) (caller : Option Tid) (ws : List Word) : Word × State :=
  let st := recordStatus (s.partOf ag.part) ws
  (st, if st = 0 then s.submit ag.part caller ws else s.complete ag caller (recWord ws 8) st)

/-! ### Population -/

/-- ORG and EXT of the core at rectangle position (y, x) of a shape of `rows` by `cols` over `h` by `w` cores (R77). -/
def extents (rows cols h w y x : Nat) : Word × Word :=
  let tr := (rows + h - 1) / h
  let tc := (cols + w - 1) / w
  let r := Nat.min tr (rows - y * tr)
  let c := Nat.min tc (cols - x * tc)
  (BitVec.ofNat 64 (y * tr * 2 ^ 32 + x * tc), BitVec.ofNat 64 (r * 2 ^ 32 + c))

/-- ORG and EXT of logical core (ly, lx) in a launch. -/
def Launch.extents (l : Launch) (ly : BitVec 7) (lx : BitVec 6) : Word × Word :=
  match recShape l.record, l.placed with
  | true, some (oy, ox, hm1, wm1) =>
    Sys2Proof.Machine.extents (bits (recWord l.record 9) 63 32) (bits (recWord l.record 9) 31 0)
      (hm1.toNat + 1) (wm1.toNat + 1) (ly - oy).toNat (lx - ox).toNat
  | _, _ => (0, 0)

/-- The trap vector of a launch's threads: word 10, or the partition's (R77, R291). -/
def Launch.tvec (l : Launch) (p : Partition) : Word := if recWord l.record 10 = 0 then p.tvec else recWord l.record 10

/-- The SEQ of a slot, once its thread has left (15_time_axes.md R239). -/
def Thread.slotSeq (t : Thread) : Half := if t.home = t.tid then t.ring.seq else t.ring.under

/-- The thread with what belongs to the slot `o`: its SEQ (15_time_axes.md R239), and what it has issued since the last refill (R66). -/
def Thread.inSlot (t o : Thread) : Thread :=
  { t with
    ring := { t.ring with seq := o.slotSeq }
    pipe := { t.pipe with vecIssued := o.pipe.vecIssued, starved := o.pipe.starved } }

/-- The thread is put into its slot, its EBUD set as for a newly populated slot: ALLOW over the active slots, this one
counted (R64). -/
def State.seat (s : State) (t : Thread) : State :=
  let s1 := s.putThread { t.inSlot (s.thread t.tid) with active := true }
  let a := (s1.coreThreads t.cid).length
  s1.updThread t.tid fun t => { t with pipe := { t.pipe with
    ebud := BitVec.ofNat 64 (bits (s1.coreOf t.cid).eallow 31 0 / a) } }

/-- A thread as a slot's population leaves it, before its launch or its runtime sets its own values (R53). -/
def newThread (tid : Tid) (part : BitVec 6) (ly : BitVec 7) (lx : BitVec 6) : Thread :=
  let t := Thread.unpopulated tid
  { t with active := true, part := part, ident := { t.ident with ly := ly, lx := lx } }

/-- A slot that its thread has left: what remains is its partition's number and what belongs to the slot. -/
def Thread.vacated (t : Thread) : Thread := ({ Thread.unpopulated t.tid with part := t.part } : Thread).inSlot t

/-- The slot holds a thread, or is the home of one of its core's partition that runs elsewhere, or stands in the save area, and keeps its handle
(10_traps.md R168, R169; log entry 24). -/
def State.slotTaken (s : State) (t : Tid) : Bool :=
  (s.thread t).active || (s.activeThreads ++ s.part.save.all ++ s.parts.flatMap (·.save.all)).any fun x =>
    x.home == t && (s.coreOf (tidCore t)).owner == some x.part

/-- The slot of thread `t` is empty; the SEQ of a displaced thread's home slot goes on where it stood (15_time_axes.md R239). -/
def State.vacate (s : State) (t : Thread) : State :=
  let s1 := s.putThread t.vacated
  if t.home = t.tid || (s1.thread t.home).active then s1
  else s1.updThread t.home fun x => { x with ring := { x.ring with seq := t.ring.seq } }

/-- The lowest-numbered free slot of a core (R76); a slot reserved for a moving thread is not free. -/
def State.freeSlot (s : State) (c : Cid) : Option Tid :=
  (List.range 8).map (fun n => mkTid c (BitVec.ofNat 3 n)) |>.find? (fun t => !s.slotTaken t)

/-- The thread of launch `l` with work identifier `wid` in slot `tid` at logical (ly, lx) (R77). -/
def Launch.thread (l : Launch) (p : Partition) (tid : Tid) (ly : BitVec 7) (lx : BitVec 6) (wid : Word) : Thread :=
  let t := newThread tid l.part ly lx
  let e := l.extents ly lx
  let r := recWord l.record
  { (((t.wr 1 (r 4)).wr 2 (r 5)).wr 3 (r 6)).wr 4 (r 7) with
    pc := r 0
    ident := { t.ident with wid := wid, widw := r 2, org := e.1, ext := e.2 }
    trap := { t.trap with tvec := l.tvec p }
    rw := { t.rw with rbvec := r 11 }
    launch := some l.id }

/-- The physical core that runs logical (y, x): none while its memory stands in a shadow slice, where it offers no slot
(10_traps.md R168, R177). -/
def Partition.running (p : Partition) (ly : BitVec 7) (lx : BitVec 6) : Option Cid :=
  match p.target ly lx with
  | .core c => some c
  | .shadow _ => none

end Sys2Proof.Machine
end

