-- ==== Sys2Proof/Machine/Axes.lean ====
section
/-! DEFINITION. Time axes: horizons (15_time_axes.md R230 to R234; 17_run_ahead.md R274), what a horizon releases (R237, R248,
R261, R279), message rings (R235 to R237), the object directory (16_boosted_tasks.md R260, R261) and unbinding (R232, R256, R272;
21 R341). -/
namespace Sys2Proof.Machine

/-! ### Frame axes -/

/-- A frame axis as after reset (18_host.md R294; 17_run_ahead.md R272). -/
def FrameAxis.initial (n : BitVec 14) : FrameAxis :=
  { num := n, word0 := 0, base := 0, tailAddr := 0, head := 0, published := 0, window := 0, tokens := [], retired := none,
    frames := [], hzn := 0, draining := false }

def State.axisOf (s : State) (n : BitVec 14) : FrameAxis := (s.axes.find? (·.num == n)).getD (FrameAxis.initial n)
def State.putAxis (s : State) (a : FrameAxis) : State := { s with axes := putBy (·.num == a.num) a s.axes }
def State.updAxis (s : State) (n : BitVec 14) (f : FrameAxis → FrameAxis) : State := s.putAxis (f (s.axisOf n))

/-- The newest retained position: the highest that the axis holds, or has retired (R274). -/
def FrameAxis.newest (a : FrameAxis) : Option Word := (a.tokens.getLast?.map (·.pos)).or a.retired

/-- The partition to which the axis is allotted (R271). -/
def FrameAxis.owner (a : FrameAxis) : Option (BitVec 6) :=
  if bit a.word0 63 then some (a.word0.extractLsb' 0 6) else none

/-- Entries of the host token ring; 0 for no ring (R280). -/
def FrameAxis.ringSize (a : FrameAxis) : Nat := if bits a.word0 20 16 = 0 then 0 else 2 ^ bits a.word0 20 16

/-- The active threads bound to axis `n` of partition `p`, those in its save area included (R169, R278). -/
def State.boundTo (s : State) (p : BitVec 6) (n : Nat) : List Thread :=
  (s.activeThreads ++ (s.partOf p).save.all).filter (fun t => t.part == p && t.bound && t.axisNum = n)

/-- The thread is the last one bound to its axis. -/
def State.lastBound (s : State) : Bool := (s.boundTo s.th.part s.th.axisNum).length ≤ 1

/-- The least of some targets. -/
def least : List Word → Option Word
  | [] => none
  | x :: xs =>
    match least xs with
    | none => some x
    | some y => some (if x < y then x else y)

/-- The lowest target of a rollback event of the thread that is pending or in progress. -/
def Thread.rollTarget (t : Thread) : Option Word :=
  least ([t.rw.event, t.rw.vectored, t.rw.target].filterMap id)

/-- The VTs of messages and anti-messages that hold the axis (R233, R274). -/
def State.messageVts (s : State) (p : BitVec 6) (n : Nat) : List Word :=
  (s.messages.filter (·.srcAxis == some (p, n))).map (·.vt)

/-- h of a frame axis (R274). -/
def State.frameMin (s : State) (a : FrameAxis) : Word :=
  let p := a.owner.getD 0
  let n := a.num.toNat
  let top : Word := match a.newest with
    | none => 0
    | some x => x + 1
  (least (top :: (a.frames.filter (·.2)).map (·.1) ++ s.messageVts p n ++ (s.boundTo p n).filterMap (·.rollTarget))).getD top

/-- HZN of an axis of partition `p`. -/
def State.axisHorizon (s : State) (p : BitVec 6) (n : Nat) : Word :=
  if h : n < 64 then (s.partOf p).hzn[n] else (s.axisOf (BitVec.ofNat 14 n)).hzn

/-- HZN as the thread reads it: 0 while unbound (R231). -/
def State.hznOf (s : State) (t : Thread) : Word := if t.bound then s.axisHorizon t.part t.axisNum else 0

/-! ### Message rings -/

def Ring.base (r : Ring) : Nat := bits r.mrbase 20 4 * 16
def Ring.size (r : Ring) : Nat := bits r.mrsize 21 7 * 128
/-- The registers name a ring (R235). -/
def Ring.ok (r : Ring) : Bool := r.size ≠ 0 && r.base + r.size ≤ watchdogOff

/-- Bytes of a slot with `n` payload words (R236). -/
def slotBytes (n : Nat) : Nat := 16 + 16 * ((n + 1) / 2)

/-- STATE, LEN and the sender handle of a header's word 1 (R236); handles compare as the 16 bits that hold them. -/
def hdrState (w1 : Word) : Nat := bits w1 10 8
def hdrLen (w1 : Word) : Nat := bits w1 15 11
def hdrSender (w1 : Word) : Nat := bits w1 31 16
def hdrSeq (w1 : Word) : Nat := bits w1 63 32

/-- The bytes that the slot at `off` takes. -/
def Ring.slotSize (r : Ring) (off : Nat) (w1 : Word) : Nat :=
  if hdrState w1 = 4 then r.base + r.size - off else slotBytes (hdrLen w1)

/-- The offset after a slot, which is the ring's start at its end. -/
def Ring.next (r : Ring) (off n : Nat) : Nat := if r.base + r.size ≤ off + n then r.base else off + n

/-- The header at offset `off` of the thread's ring. -/
def State.header (s : State) (t : Thread) (off : Nat) : Word × Word :=
  (s.mem.word (s.ownKey t off), s.mem.word (s.ownKey t (off + 8)))

/-- The slots from `off` on, over `left` bytes: offset, word 0 and word 1. -/
def walkRing (s : State) (t : Thread) : Nat → Nat → Nat → List (Nat × Word × Word)
  | 0, _, _ => []
  | fuel + 1, off, left =>
    if left = 0 then []
    else
      let (w0, w1) := s.header t off
      let n := t.ring.slotSize off w1
      (off, w0, w1) :: walkRing s t fuel (t.ring.next off n) (left - n)

/-- The slots of the thread's ring, oldest first. -/
def State.slots (s : State) (t : Thread) : List (Nat × Word × Word) :=
  if t.ring.ok then walkRing s t (t.ring.used / 16) t.ring.head t.ring.used else []

/-- A write of `n` bytes by the network interface into the ring of a slot (06_ordering.md R102, kind 8). -/
def State.ringWrite (s : State) (t : Thread) (off n : Nat) (ws : List Word) : State :=
  let pl := s.ownPlace t off
  ({ s with mem := writeWords s.mem pl.key ws } : State).tracedAt pl t.tid 8 n

/-- STATE of the slot at `off` := `st`. -/
def State.setSlot (s : State) (t : Thread) (off st : Nat) : State :=
  s.ringWrite t (off + 8) 8 [setBits (s.header t off).2 10 8 st]

/-- A slot at the head is freed: VOID, PAD, or DONE with its VT passed (R237). -/
def State.slotFreed (s : State) (t : Thread) (w0 w1 : Word) : Bool :=
  hdrState w1 = 3 || hdrState w1 = 4 || (hdrState w1 = 2 && (!t.bound || w0 < s.hznOf t))

/-- The head moves over every freed slot (R237). -/
def advanceHead (tid : Tid) : Nat → State → State
  | 0, s => s
  | fuel + 1, s =>
    let t := s.thread tid
    if t.ring.ok && t.ring.used ≠ 0 then
      let (w0, w1) := s.header t t.ring.head
      if s.slotFreed t w0 w1 then
        let n := t.ring.slotSize t.ring.head w1
        advanceHead tid fuel (s.putThread { t with ring := { t.ring with head := t.ring.next t.ring.head n, used := t.ring.used - n } })
      else s
    else s
def State.freeSlots (s : State) (tid : Tid) : State := advanceHead tid ((s.thread tid).ring.used / 16) s

/-! ### The object directory -/

/-- The home die and the set of a handle (R260). -/
def homeHash (h : Word) : Word := h ^^^ (h >>> 32)
def homeDie (h : Word) : BitVec 4 := (homeHash h).extractLsb' 0 4
def homeSet (h : Word) : BitVec 11 := (homeHash h).extractLsb' 4 11

/-- The entries that `p` picks leave the directory (R261). -/
def State.dropEntries (s : State) (p : DirEntry → Bool) : State := { s with dir := s.dir.filter (!p ·) }

/-! ### What a horizon releases -/

/-- The entry is marked as left (R279). -/
def Effect.kept (e : Effect) : Bool := e.left

/-- A commit queue without the entries marked as left that the horizon has passed (R279). -/
def Core.dropLeft (c : Core) (p : BitVec 6) (n : Nat) (h : Word) : Core :=
  { c with commits := c.commits.filter (fun e => !(e.left && e.part == p && e.axis == some n && e.vt < h)) }

/-- The horizon of axis `n` of partition `p` has moved: rewind records and ring slots are freed, and directory entries and left
effects leave (R237, R248, R261, R279). -/
def State.horizonMoved (s : State) (p : BitVec 6) (n : Nat) : State :=
  let h := s.axisHorizon p n
  let ids := ((s.activeThreads.filter (fun t => t.part == p && t.bound && t.axisNum = n))).map (·.tid)
  let s1 := ids.foldl (fun s t => (s.freeRecords t h).freeSlots t) s
  (s1.dropEntries (fun e => e.part == p && e.axis = n && e.tvt < h)).eachCore (·.dropLeft p n h)

/-- What the horizon has passed of a thread's records and ring is freed: a thread that comes back from a save area catches up
(R237, R248; 10_traps.md R169). -/
def State.catchUp (s : State) (t : Tid) : State :=
  if (s.thread t).bound then (s.freeRecords t (s.hznOf (s.thread t))).freeSlots t else s

/-- A checkpoint of the current thread (R246). When the horizon has passed it already, every record below it is freed (R248). -/
def State.checkpoint (s : State) (regs : Vector Word 16) (pc : Word) : State :=
  let s1 := s.pushCheckpoint regs pc
  if s1.th.bound then s1.freeRecords s1.th.tid (s1.hznOf s1.th) else s1

/-- FRAME_AXIS_HORIZON_RECOMPUTE (R274): HZN := max(HZN, h). -/
def State.recompute (s : State) (n : BitVec 14) : State :=
  let a := s.axisOf n
  let h := s.frameMin a
  if a.hzn < h then (s.putAxis { a with hzn := h }).horizonMoved (a.owner.getD 0) n.toNat else s

/-- The same for the axis of a thread, when it is a frame axis. -/
def State.recomputeFor (s : State) (t : Thread) : State :=
  if t.bound && t.axisMode = 1 then s.recompute (BitVec.ofNat 14 t.axisNum) else s

/-- The running thread of partition `p` with the handle `h`. -/
def State.byHandle (s : State) (p : BitVec 6) (h : Word) : Option Thread :=
  s.activeThreads.find? (fun t => t.part == p && t.handle == h)

/-- A rollback event for the thread, which its frame axis's horizon counts at once (R242, R274). -/
def State.rollback (s : State) (tid : Tid) (v : Word) : State :=
  let s1 := s.raiseEvent tid v
  s1.recomputeFor (s1.thread tid)

/-- The threads of partition `p`'s save area with handle `h` changed by `f`. -/
def State.updSaved (s : State) (p : BitVec 6) (h : Word) (f : Thread → Thread) : State :=
  s.updSavedBy p (fun x => x.thread.handle == h) f

/-- A rollback event for the thread with handle `h` of partition `p`, wherever it stands (10_traps.md R168, R169). -/
def State.rollbackOwner (s : State) (p : BitVec 6) (h v : Word) : State :=
  match s.byHandle p h with
  | some t => s.rollback t.tid v
  | none => s.updSaved p h (·.event v)

/-! ### Unbinding -/

/-- The entry was filed on axis `n` of partition `p`. -/
def Effect.filedOn (e : Effect) (p : BitVec 6) (n : Nat) : Bool := e.part == p && e.axis == some n

/-- The entries filed on an axis that has no bound thread any more count as passed (R272, R341); those marked as left, which nothing can
withdraw from now on, leave. -/
def Core.passAll (c : Core) (p : BitVec 6) (n : Nat) : Core :=
  { c with commits := (c.commits.filter fun e => !(e.left && e.filedOn p n)).map fun e =>
    if e.filedOn p n then { e with passed := true } else e }

/-- The entries of a thread that has left its axis, or its slot, are no longer those of a bound thread (17_run_ahead.md R278; 21 R341). -/
def Core.orphan (c : Core) (t : Tid) : Core :=
  { c with commits := updBy (fun e => e.owner == t && e.saved.isNone) (fun e => { e with live := false }) c.commits }

/-- The current thread leaves its axis (R232, R256, R272): its records are freed, its directory entries removed, and after the
last thread of an axis the entries filed on it count as passed; a frame axis then drains. -/
def State.unbind (s : State) : State :=
  let t := s.th
  if !t.bound then s
  else
    let p := t.part
    let n := t.axisNum
    let last := s.lastBound
    let s1 := s.mapTh fun t => { t.setSt tSPEC false with
      rw := { t.rw.emptied with event := none, vectored := none, target := none }
      ax := { t.ax with axis := 0, dirmask := 0 } }
    let s2 := s1.dropEntries (fun e => e.part == t.part && e.owner == t.handle)
    let held (m : Message) : Bool := m.st = .heldAtReceiver && m.destHandle == t.handle && m.part == p
    let s3 : State := { s2 with messages := updBy held (fun m => { m with st := .accepted }) s2.messages }
    let s4 := (s3.freeSlots t.tid).eachCore (·.orphan t.tid)
    let s5 := if last then s4.eachCore (·.passAll p n) else s4
    if t.axisMode = 1 then
      (if last then s5.updAxis (BitVec.ofNat 14 n) (fun a => { a with draining := true }) else s5).recompute (BitVec.ofNat 14 n)
    else s5

end Sys2Proof.Machine
end

