-- ==== Sys2Proof/Machine/Barrier.lean ====
section
/-! DEFINITION. The barriers of a partition at the root of the apex tree (11_engines.md R195, R196). -/
namespace Sys2Proof.Machine

def barGen (x : Word) : Nat := bits x 63 40
def barArr (x : Word) : Nat := bits x 36 20
def barCount (x : Word) : Nat := bits x 16 0

/-- BARCNTn of a partition. -/
def Partition.bar (p : Partition) (n : BitVec 6) : Word := p.barcnt[n.toNat]'n.isLt
def Partition.setBar (p : Partition) (n : BitVec 6) (x : Word) : Partition :=
  { p with barcnt := p.barcnt.set n.toNat x n.isLt }

/-- The result is that of an arrival counted at barrier `n`. -/
def atBarrier (n : BitVec 6) (x : PendState) : Bool := x = .barrier n true

/-- The generation completes: GEN increments, ARR returns to 0, and every waiting arrival receives the new GEN (R195, R196). -/
def State.completeBar (s : State) (p : BitVec 6) (n : BitVec 6) : State :=
  let x := (s.partOf p).bar n
  let g := (barGen x + 1) % 2 ^ 24
  let saved (t : Thread) : Thread := t.arriveAll (atBarrier n) ((BitVec.ofNat 64 g).setWidth 512)
  let s1 := s.updPart p fun y => { y.setBar n (setBits (setBits x 36 20 0) 63 40 g) with save := y.save.map saved }
  answerAll (atBarrier n) (BitVec.ofNat 64 g) (s1.threads.filter (fun t => t.active && t.part == p)) s1

/-- An MTS of COUNT (R195). -/
def State.setBarCount (s : State) (p : BitVec 6) (n : BitVec 6) (v : Word) : State :=
  let x := setBits ((s.partOf p).bar n) 16 0 (bits v 16 0)
  let s1 := s.updPart p (·.setBar n x)
  if (barCount x = 0 && barArr x ≠ 0) || (barCount x ≠ 0 && barCount x ≤ barArr x) then s1.completeBar p n else s1

/-- The first arrival at barrier `n` that is on its way is counted; into w0 it then leaves nothing pending (04_threads.md R57). -/
def countFirst (n : BitVec 6) : List Pending → List Pending
  | [] => []
  | q :: qs => if q.st = .barrier n false then (if q.reg = 0 then qs else { q with st := .barrier n true } :: qs) else q :: countFirst n qs

/-- An arrival reaches the root (R196): the COUNT-th completes the generation. -/
def State.arriveBar (s : State) (tid : Tid) (p : BitVec 6) (n : BitVec 6) : State :=
  let x := (s.partOf p).bar n
  let s1 := (s.updPart p (·.setBar n (setBits x 36 20 (barArr x + 1)))).updThread tid fun t =>
    { t with pipe := { t.pipe with pend := countFirst n t.pipe.pend } }
  if barCount x ≤ barArr x + 1 then s1.completeBar p n else s1

end Sys2Proof.Machine
end

