-- ==== Sys2Proof/Machine/FullEmpty.lean ====
section
/-! DEFINITION. The full/empty group (03_addresses.md R46, R47; 20 R336, 21 R351, 22 R374), held words (R48 to R50; 21 R342,
22 R367), far operations (R51, R52; 20 R332) and the fences (06_ordering.md R95, R97; 20 R334, R335). -/
namespace Sys2Proof.Machine

/-- A plain access of `n` bytes at `addr`: an earlier fault is reported, the address checks are made (R141, R165), the access
waits in issue as R9, R92, R100 and R104 say, and then takes its effect. -/
def plainAccess (ac : Access) (n : Nat) (addr : Word) (store : Bool) (s : State) (f : Place → State → Effort) : Effort :=
  match s.reportAt addr true with
  | some c => .trap c
  | none =>
    match resolve s s.th.agent ac n addr with
    | .error c => .trap c
    | .ok pl => if s.accessWaits false pl.key n || s.stalled addr n store then .parked (s.parkOn .issue) else f pl s

/-- No other thread holds the word (R49). -/
def State.unheld (s : State) (key : Nat) : Bool := (s.heldByOther (some s.th.tid) key 8).isNone

/-- The place lies outside a core in replay mode, which hears nothing of it but what its log delivers (10_traps.md R175). -/
def State.deaf (s : State) (pl : Place) : Bool := s.replays s.th.cid && pl.space ≠ .loc s.th.cid

/-- The effect of LDF, and of LDFE with `take` (R46). A word that is not yet full, or that another thread holds, leaves the
result pending and the request on the wait list (R47, R71). -/
def ldfBody (take : Bool) (d la : Reg) (addr : Word) (s : State) : Effort :=
  plainAccess (if take then .feBoth else .feRead) 8 addr false s fun pl s =>
    if s.unheld pl.key && s.isFull pl.key && !s.deaf pl then
      match dataError s pl addr 8 with
      | some c => .trap c
      | none =>
        let (x, s1) := s.reply pl (s.wordAt pl)
        let s2 := (s1.result d la x).advance
        .done (if take then s2.changeBit pl s.th.tid false else s2)
    else
      let w := storeWaiter s pl addr 8 (if take then .ldfe else .ldf) 0 d none
      .done ((s.wait d la (.full pl.key take)).enlist w).advance

/-- The effect of STF (R46, R84, R176): at a doorbell it posts a task, at the watchdog word it restarts the
count, and at a peer's doorbell it posts in that module (18_host.md R296). -/
def stfBody (data addr : Word) (s : State) : Effort :=
  plainAccess .stf 8 addr true s fun pl s =>
    match pl.special with
    | .watchdog => .done ((s.mapPart (·.wdRestart s.cycle)).plainStored).advance
    | .doorbell q _ =>
      let w := storeWaiter s pl addr 8 .stf (data.setWidth 512) 0 none
      match s.post q w s.th.handle with
      | (true, s1) => .done (s1.plainStored).advance
      | (false, s1) => .parked (s1.parkOn (.full pl.key))
    | .peerDoorbell => .done ((s.notePosted pl addr 0).plainStored).advance
    | .none =>
      if s.th.logs && s.th.rw.free = 0 then .parked (s.parkOn (.stack 1))
      else
        let (rec, s1) := s.reserveFor s.th.logs addr true
        let w := storeWaiter s1 pl addr 8 .stf (data.setWidth 512) 0 rec
        .done (((s1.notePosted pl addr 8).request w).plainStored).advance

/-- The effect of STEF (R46): performed when the word is empty, and otherwise the thread parks until the memory performs it
(R69, R70). -/
def stefBody (data addr : Word) (s : State) : Effort :=
  plainAccess .feWrite 8 addr true s fun pl s =>
    if s.th.logs && s.th.rw.free = 0 then .parked (s.parkOn (.stack 1))
    else if s.unheld pl.key && !s.isFull pl.key then
      let (rec, s1) := s.reserveFor s.th.logs addr true
      let w := storeWaiter s1 pl addr 8 .stf (data.setWidth 512) 0 rec
      let s2 := ((s1.notePosted pl addr 8).exchange w).storeAt pl s.th.tid 3 8 data.toNat
      .done ((s2.changeBit pl s.th.tid true).plainStored).advance
    else
      let w := storeWaiter s pl addr 8 .stef (data.setWidth 512) 0 (if s.th.logs then some 0 else none)
      .parked ((s.enlist w).parkOn (.full pl.key))

/-- The effect of FETEST (R46, R336): it waits behind a hold, but not on the bit. -/
def fetestBody (d la : Reg) (addr : Word) (s : State) : Effort :=
  plainAccess .feRead 8 addr false s fun pl s =>
    if s.unheld pl.key && !s.deaf pl then
      let (x, s1) := s.reply pl (b2w (s.isFull pl.key))
      .done (s1.result d la x).advance
    else .done ((s.wait d la (.grant pl.key)).enlist (storeWaiter s pl addr 8 .fetest 0 d none)).advance

/-- The effect of FESET (R46, R336). -/
def fesetBody (data addr : Word) (s : State) : Effort :=
  plainAccess .feWrite 8 addr true s fun pl s =>
    if s.th.logs && s.th.rw.free = 0 then .parked (s.parkOn (.stack 1))
    else
      let (rec, s1) := s.reserveFor s.th.logs addr true
      let w := storeWaiter s1 pl addr 8 .feset (data.setWidth 512) 0 rec
      .done (((s1.notePosted pl addr 8).request w).plainStored).advance

/-- LDF (R46): waits until the word is full and loads it. -/
def execLdf (d a : Reg) (imm : BitVec 10) (l : Reg) (s : State) : Result :=
  issue (.ldf d a imm l) s none (wRegs [d, a]) fun s => ldfBody false d l (memAddr s a imm 8) s

/-- LDFE (R46): waits until the word is full, loads it and sets it empty. -/
def execLdfe (d a : Reg) (imm : BitVec 10) (l : Reg) (s : State) : Result :=
  issue (.ldfe d a imm l) s none (wRegs [d, a]) fun s => ldfBody true d l (memAddr s a imm 8) s

/-- STF (R46): stores the word and sets it full. -/
def execStf (d a : Reg) (imm : BitVec 10) (s : State) : Result :=
  issue (.stf d a imm) s none (wRegs [d, a]) fun s => stfBody (s.rd d) (memAddr s a imm 8) s

/-- STEF (R46): waits until the word is empty, stores it and sets it full. -/
def execStef (d a : Reg) (imm : BitVec 10) (s : State) : Result :=
  issue (.stef d a imm) s none (wRegs [d, a]) fun s => stefBody (s.rd d) (memAddr s a imm 8) s

/-- FETEST (R46): w[d] := the full/empty bit. -/
def execFetest (d a : Reg) (imm : BitVec 10) (l : Reg) (s : State) : Result :=
  issue (.fetest d a imm l) s none (wRegs [d, a]) fun s => fetestBody d l (memAddr s a imm 8) s

/-- FESET (R46): the full/empty bit := bit 0 of w[d]. -/
def execFeset (d a : Reg) (imm : BitVec 10) (s : State) : Result :=
  issue (.feset d a imm) s none (wRegs [d, a]) fun s => fesetBody (s.rd d) (memAddr s a imm 8) s

/-! ### Holds -/

/-- The thread has sent a reservation for the word `key` at `addr`. -/
def State.reserving (s : State) (key : Nat) (addr : Word) : State :=
  s.mapTh fun t => { t with holding := some key, holdAddr := addr }

/-- In replay the grant of a word of the core's own memory is still to come from the log (10_traps.md R175; log entry 22). -/
def State.grantLogged (s : State) : Bool :=
  s.core.log.replay.any fun x => (x.2.headD 0).extractLsb' 28 4 = 4 && (x.2.headD 0).extractLsb' 25 3 = s.th.slot && x.2[4]? = some s.th.ident.icnt

/-- The effect of HOLD (R48): the word is granted at once when nobody holds it, and otherwise the reservation queues. -/
def holdBody (d la : Reg) (addr : Word) (s : State) : Effort :=
  plainAccess .feBoth 8 addr false s fun pl s =>
    let s1 := s.reserving pl.key (s.absAddr addr)
    if s.deaf pl || s.grantLogged then .done (s1.wait d la (.grant pl.key)).advance else
    match s.held.find? (·.key = pl.key) with
    | none =>
      match dataError s pl addr 8 with
      | some c => .trap c
      | none =>
        let h : HeldWord := ⟨pl.key, .thread s.th.tid, s.cycle, false, []⟩
        let s2 : State := { s1 with held := s1.held ++ [h] }
        let x := s.wordAt pl
        let (x, s2) := if pl.space = .loc s.th.cid then (x, s2) else s2.incomingFrom 4 (sourceAt pl.key) x
        .done (s2.result d la x).advance
    | some _ =>
      let enq (h : HeldWord) : HeldWord := { h with queue := h.queue ++ [⟨.thread s.th.tid, d, pl.enc⟩] }
      let s2 : State := { s1 with held := updBy (fun h => decide (h.key = pl.key)) enq s1.held }
      .done (s2.wait d la (.grant pl.key)).advance

/-- HOLD (R48, R49): illegal while the thread holds or awaits a word. -/
def execHold (d a : Reg) (imm : BitVec 10) (l : Reg) (s : State) : Result :=
  let i : Instr := .hold d a imm l
  issue i s (if s.th.holding.isSome then some (illegal i) else none) (wRegs [d, a]) fun s =>
    holdBody d l (memAddr s a imm 8) s

/-- The effect of RELEASE (R48): the word is written, the hold ends, and the next reservation is granted. -/
def releaseBody (data addr : Word) (s : State) : Effort :=
  plainAccess .feBoth 8 addr true s fun pl s =>
    let s1 := ((s.notePosted pl addr 8).storeAt pl s.th.tid 5 8 data.toNat).plainStored
    .done (s1.endHold pl.key).advance

/-- RELEASE (R48, R49, R367): it waits for the grant of its thread's HOLD, and then is illegal for a thread that holds no word or names
another address. -/
def execRelease (d a : Reg) (imm : BitVec 10) (s : State) : Result :=
  let i : Instr := .release d a imm
  if s.awaiting then (Effort.parked (s.parkOn .issue)).outcome s
  else
    let bad := s.th.holding.isNone || s.absAddr (memAddr s a imm 8) ≠ s.th.holdAddr
    issue i s (if bad then some (illegal i) else none) (wRegs [d, a]) fun s => releaseBody (s.rd d) (memAddr s a imm 8) s

/-! ### Far operations -/

/-- The effect of FAR (R51, R52): one read and write at the bank, as a relaxed access. -/
def farBody (op : BitVec 4) (data addr : Word) (s : State) : Effort :=
  match s.reportAt addr false with
  | some c => .trap c
  | none =>
    if addrSpace addr ≠ 1 then .trap (causeOf 0x05 addr)
    else
      match resolve s s.th.agent .store 8 addr with
      | .error c => .trap c
      | .ok pl =>
        if s.accessWaits true pl.key 8 || s.stalled addr 8 true then .parked (s.parkOn .issue)
        else .done (s.request (storeWaiter s pl addr 8 (.far op) (data.setWidth 512) 0 none)).advance

/-- FAR (R51): combines w[d] into an SBM word. -/
def execFar (d a o : Reg) (imm : BitVec 10) (s : State) : Result :=
  issue (.far d a o imm) s none (wRegs [d, a]) fun s => farBody o (s.rd d) (memAddr s a imm 8) s

/-! ### Fences -/

/-- The local memories of the thread's own quad, the shadow slices that stand for one included (02_module.md R16, R19). -/
def inQuad (t : Thread) (key : Nat) : Bool :=
  ((memoryOf key).1 = 0 || (memoryOf key).1 = 3) && cidQuad (BitVec.ofNat 13 (memoryOf key).2.1) = cidQuad t.cid

/-- A prior access of the thread that `p` picks is not yet performed. -/
def State.outstandingOf (s : State) (t : Thread) (p : Waiter → Bool) : Bool := s.waiters.any (fun w => w.owner == some t.tid && p w)
def State.outstanding (s : State) (p : Waiter → Bool) : Bool := s.outstandingOf s.th p

/-- A fence reports a held fault (R166), waits in issue while `waits`, and then takes effect. -/
def fence (waits : State → Bool) (f : State → State) (s : State) : Effort :=
  match s.th.faultCause with
  | some c => .trap c
  | none => if waits s then .parked (s.parkOn .issue) else .done (f s).advance

/-- FENCE group (R95): prior relaxed accesses to the quad's local memories are performed. -/
def execFenceGroup (s : State) : Result :=
  issue .fenceGroup s none [] (fence (fun s => s.outstanding fun w => w.op.relaxed && inQuad s.th w.place) id)

/-- FENCE device (R95): every prior relaxed access is performed. -/
def execFenceDevice (s : State) : Result :=
  issue .fenceDevice s none [] (fence (fun s => s.outstanding (·.op.relaxed)) id)

/-- FENCE system (R95, R97): and every prior host and peer store is complete. A store that a link which went down has lost is
reported here (18_host.md R297). Outside a gang the FENCE passes while such stores are outstanding, and `State.fenceHolds` keeps everything
but a later host store behind it. -/
def execFenceSystem (s : State) : Result :=
  match s.th.pipe.lost with
  | some a => .next ((s.mapTh fun t => { t with pipe := { t.pipe with lost := none } }).takeTrap (causeOf 0x08 a))
  | none =>
    issue .fenceSystem s none []
      (fence (fun s => s.outstanding (·.op.relaxed) || (s.th.gang.isSome && s.th.postsOut)) fun s =>
        if s.th.postsOut then s.mapTh fun t => { t with pipe := { t.pipe with fence := some t.pc } } else s)

/-- The instruction is a plain or relaxed store to host memory, which alone may issue behind a FENCE system that waits (R97). -/
def State.hostStore (s : State) : Instr → Bool
  | .st _ a sz _ imm =>
    match resolve s s.th.agent .store (2 ^ sz.toNat) (memAddr s a imm (2 ^ sz.toNat)) with
    | .ok pl => pl.space = .host
    | .error _ => false
  | _ => false

/-- What a FENCE system that waits does to the next issue of its thread, whose word is `w` (R97; 18_host.md R297): nothing more once the
stores are complete; the trap of a lost store, at the FENCE; or it holds everything but a host store. DESIGN CHOICE (log entry 83): while
SP = 1 the loss stays for the next FENCE system to report. -/
def State.fenceHolds (s : State) (w : Half) : Effort :=
  match s.th.pipe.fence with
  | none => .done s
  | some pc =>
    match s.th.st tSP, s.th.pipe.lost with
    | false, some a => .trapIn (s.mapTh fun t => { t with pc := pc, pipe := { t.pipe with fence := none, lost := none } }) (causeOf 0x08 a)
    | _, _ =>
      if !s.th.postsOut then .done (s.mapTh fun t => { t with pipe := { t.pipe with fence := none } })
      else if (decode w).toOption.any s.hostStore then .done s
      else .parked (s.parkOn .issue)

/-- The request stores. -/
def WaitOp.stores : WaitOp → Bool
  | .ldf | .ldfe | .fetest | .lane _ => false
  | _ => true

/-- FENCE.I (R95, R335): prior stores are performed, and then the core's instruction cache is invalidated. -/
def execFenceI (s : State) : Result :=
  issue .fenceI s none [] (fence (fun s => s.outstanding (·.op.stores)) fun s => s.mapCore fun c => { c with icache := [] })

end Sys2Proof.Machine
end

