-- ==== Sys2Proof/Machine/Special.lean ====
section
/-! DEFINITION. The special registers: MFS and MTS (08_encoding.md R137, R138; 21 R358) with each register's own behaviour
(02_module.md R15; 03_addresses.md R32, R36, R37, R43; 04_threads.md R55, R59, R63; 05_work.md R73, R77, R86; 08_encoding.md R126,
R139; 09_matrix_vector.md R153; 11_engines.md R195; 15_time_axes.md R231, R235, R244, R246; 16_boosted_tasks.md R257;
17_run_ahead.md R273). -/
namespace Sys2Proof.Machine

/-- The number names a special register (R138). -/
def csrKnown (n : Nat) : Bool :=
  n ≤ 0x008 || (0x010 ≤ n && n ≤ 0x013) || (0x020 ≤ n && n ≤ 0x02A) || n = 0x030 || n = 0x031 || n = 0x038 || n = 0x039 ||
  (0x040 ≤ n && n ≤ 0x046) || n = 0x050 || n = 0x051 || (0x060 ≤ n && n ≤ 0x065) || (0x070 ≤ n && n ≤ 0x0AF)

/-- The number is marked — at user privilege (R138). -/
def csrPrivileged (n : Nat) : Bool := (0x040 ≤ n && n ≤ 0x046) || (0x060 ≤ n && n ≤ 0x065)

/-- The cause of an access to register `n` (R137): illegal for an unknown number, privileged for a user's access to one that
is closed to it. -/
def csrCause (i : Instr) (t : Thread) (n : Nat) : Option Cause :=
  if !csrKnown n then some (illegal i) else if t.isUser && csrPrivileged n then some (privileged i) else none

/-- FSTAT (R273). -/
def State.fstat (s : State) : Word :=
  let t := s.th
  if t.bound && t.axisMode = 1 then
    let a := s.axisOf (BitVec.ofNat 14 t.axisNum)
    let stall := s.activeThreads.any (fun x => x.pipe.park = some (.tokens t.axisNum))
    BitVec.ofNat 64 ((if stall then 2 ^ 63 else 0) + (if t.ax.rwd then 2 ^ 62 else 0) + a.frames.length * 2 ^ 48
      + a.tokens.length * 2 ^ 32 + t.ax.rvt.toNat)
  else 0

/-- What MFS reads (R138). -/
def State.csr (s : State) (n : Nat) : Word :=
  let t := s.th
  match n with
  | 0x000 => t.ident.wid
  | 0x001 => t.ident.widw
  | 0x002 => t.ident.org
  | 0x003 => t.ident.ext
  | 0x004 => zx (t.ident.ly ++ t.ident.lx : BitVec 13)
  | 0x005 => zx t.cid
  | 0x006 => zx t.slot
  | 0x007 => zx t.ident.gidx
  | 0x008 => BitVec.ofNat 64 (s.part.hm1.toNat * 2 ^ 24 + s.part.wm1.toNat * 2 ^ 16 + s.part.num.toNat)
  | 0x010 => s.clk t.cid
  | 0x011 => t.ident.icnt
  | 0x012 => s.core.msent
  | 0x013 => s.core.mrecv
  | 0x020 => t.ax.lvt
  | 0x021 => t.ax.axis
  | 0x022 => s.hznOf t
  | 0x023 => t.rw.rstk
  | 0x024 => t.rw.rsbase
  | 0x025 => t.rw.rslim
  | 0x026 => t.rw.rbvec
  | 0x027 => t.ring.mrbase
  | 0x028 => t.ring.mrsize
  | 0x029 => s.fstat
  | 0x030 => t.pipe.ebud
  | 0x031 => s.core.eallow
  | 0x038 => s.core.wlbase
  | 0x039 => s.core.wlsize
  | 0x040 => t.tstat
  | 0x041 => t.trap.tvec
  | 0x042 => t.trap.tepc
  | 0x043 => t.trap.tcause
  | 0x044 => t.trap.tval
  | 0x045 => t.trap.tscr
  | 0x046 => t.trap.rptst
  | 0x050 => s.core.mx.mxerr
  | 0x051 => s.core.mx.mxloc
  | 0x060 => s.part.ptroot
  | 0x061 => zx s.part.asid
  | 0x062 => s.part.ctbase
  | 0x063 => s.part.sbmwin
  | 0x064 => s.part.ctmiss
  | 0x065 => s.part.cttrap
  | n => if 0x070 ≤ n && n ≤ 0x0AF then s.part.bar (BitVec.ofNat 6 (n - 0x070)) else 0

/-- What a read of register `n` returns, with the arrival that it is (R174; 21 R358): CLK as kind 5, HZN as kind 6, registers that another
agent changes as kind 12. -/
def State.readCsr (s : State) (n : Nat) : Word × State :=
  let x := s.csr n
  if n = 0x010 then s.incoming 5 x
  else if n = 0x022 then s.incoming 6 x
  else if n = 0x012 || n = 0x013 || n = 0x029 || n = 0x062 || n = 0x064 || n = 0x065 || 0x070 ≤ n then s.incoming 12 x
  else (x, s)

/-- MFS (R358): w[d] := the special register. -/
def execMfs (d : Reg) (c : BitVec 12) (s : State) : Result :=
  let i : Instr := .mfs d c
  issue i s (csrCause i s.th c.toNat) (wRegs [d]) fun s =>
    let (x, s1) := s.readCsr c.toNat
    .done (s1.wr d x).advance

/-- The bits of `x` from `hi` to `lo`, the others zero. -/
def field (x : Word) (hi lo : Nat) : Word := BitVec.ofNat 64 (bits x hi lo * 2 ^ lo)

/-- The bits of `x` that special register `n` holds: its reserved fields read as zero (00_scope.md R3). -/
def csrBits (n : Nat) (x : Word) : Word :=
  match n with
  | 0x001 => field x 41 0
  | 0x021 => field x 63 61 ||| field x 24 16 ||| field x 13 0
  | 0x023 | 0x024 | 0x025 => field x 20 5
  | 0x026 | 0x041 | 0x042 => field x 63 2
  | 0x027 => field x 20 4
  | 0x028 => field x 21 7
  | 0x030 | 0x031 | 0x064 => field x 31 0
  | 0x038 => field x 20 4
  | 0x039 => if 65536 < bits x 16 0 then 65536 else field x 16 0
  | 0x040 => field x 9 0
  | 0x043 => field x 15 0
  | 0x046 => field x 63 63 ||| field x 39 32 ||| field x 31 16 ||| field x 15 4
  | 0x050 => field x 8 8 ||| field x 2 0
  | 0x051 => field x 63 63 ||| field x 42 24 ||| field x 15 0
  | 0x060 => field x 40 12
  | 0x062 => field x 31 11 ||| field x 0 0
  | 0x065 => field x 0 0
  | _ => x

/-- TSTAT after an MTS (R55): SP, IE, VDIRTY and ROAM take the value written, GDIS is cleared by a 1, and the rest stays. -/
def tstatWrite (old x : Word) : Word :=
  let keep := setBit (setBit (setBit (setBit old tSP (bit x tSP)) tIE (bit x tIE)) tVDIRTY (bit x tVDIRTY)) tROAM (bit x tROAM)
  setBit keep tGDIS (bit old tGDIS && !bit x tGDIS)

/-- MXERR and MXLOC after an MTS (R153): TRAP takes the value, RB, CFG and DERR are cleared by a 1, and VALID clears with
DERR. -/
def Matrix.writeErr (m : Matrix) (x : Word) : Matrix :=
  let e := setBit (m.mxerr &&& ~~~ field x 2 0) 8 (bit x 8)
  { m with mxerr := e, mxloc := if bit e 0 then m.mxloc else setBit m.mxloc 63 false }

/-- An MTS to RSBASE or RSLIM empties the stack and sets RSTK to the new RSBASE (R244). -/
def Rewind.placed (r : Rewind) (base lim : Word) : Rewind :=
  { r with rsbase := base, rslim := lim, rstk := base, count := 0, bottom := offReg base, newest := none, marks := [] }

/-- An MTS to RSTK empties the stack at the value, or is ignored when it lies outside the region (R244). -/
def Rewind.moved (r : Rewind) (x : Word) : Rewind :=
  let v := csrBits 0x023 x
  if r.base ≤ offReg v && offReg v < r.limit then { r with rstk := v, count := 0, bottom := offReg v, newest := none, marks := [] } else r

/-- An MTS to MRBASE or MRSIZE empties the ring (R235). -/
def Ring.placed (r : Ring) (base size : Word) : Ring :=
  let r1 := { r with mrbase := base, mrsize := size, used := 0 }
  { r1 with head := r1.base, tail := r1.base }

/-- The anti-messages held at the current thread's ring are discarded with the messages that they wait for (R235, R249). -/
def State.dropHeld (s : State) : State :=
  let held (m : Message) : Bool := m.st = .heldAtReceiver && m.destHandle == s.th.handle && m.part == s.th.part
  { s with messages := updBy held (fun m => { m with st := .accepted }) s.messages }

/-- Every translation of the partition's ASID leaves every TLB of the module (R43). -/
def State.flushAsid (s : State) (asid : BitVec 16) : State :=
  let s1 := s.eachCore fun c => { c with tlb := c.tlb.filter (·.asid != asid) }
  { s1 with tlb2 := s1.tlb2.filter (·.2.asid != asid) }

/-- The effect of MTS on a register other than CKPT (R138, R358); a register marked R takes no write (R137). -/
def State.setCsr (s : State) (n : Nat) (x : Word) : State :=
  let v := csrBits n x
  match n with
  | 0x023 => s.mapTh fun t => { t with rw := t.rw.moved x }
  | 0x024 => s.mapTh fun t => { t with rw := t.rw.placed v t.rw.rslim }
  | 0x025 => s.mapTh fun t => { t with rw := t.rw.placed t.rw.rsbase v }
  | 0x026 => s.mapTh fun t => { t with rw := { t.rw with rbvec := v } }
  | 0x027 => s.dropHeld.mapTh fun t => { t with ring := t.ring.placed v t.ring.mrsize }
  | 0x028 => s.dropHeld.mapTh fun t => { t with ring := t.ring.placed t.ring.mrbase v }
  | 0x031 => if s.th.isUser then s else s.mapCore fun c => { c with eallow := v }
  | 0x038 => s.mapCore fun c => { c with wlbase := v, wlHead := 0, wlCount := 0 }
  | 0x039 => s.mapCore fun c => { c with wlsize := v, wlHead := 0, wlCount := 0 }
  | 0x040 => s.mapTh fun t => { t with tstat := tstatWrite t.tstat x }
  | 0x041 => s.mapTh fun t => { t with trap := { t.trap with tvec := v } }
  | 0x042 => s.mapTh fun t => { t with trap := { t.trap with tepc := v } }
  | 0x043 => s.mapTh fun t => { t with trap := { t.trap with tcause := v } }
  | 0x044 => s.mapTh fun t => { t with trap := { t.trap with tval := v } }
  | 0x045 => s.mapTh fun t => { t with trap := { t.trap with tscr := v } }
  | 0x046 => s.mapTh fun t => { t with trap := { t.trap with rptst := v } }
  | 0x050 => s.mapCore fun c => { c with mx := c.mx.writeErr x }
  | 0x060 => (s.mapPart fun p => { p with ptroot := v }).flushAsid s.part.asid
  | 0x062 => s.mapPart fun p => { p with ctbase := v }
  | 0x064 => s.mapPart fun p => { p with ctmiss := v }
  | 0x065 => s.mapPart fun p => { p with cttrap := v }
  | n => if 0x070 ≤ n && n ≤ 0x0AF && !s.th.isUser then s.setBarCount s.part.num (BitVec.ofNat 6 (n - 0x070)) x else s

/-- MTS CKPT (R246, R358): a bound thread pushes a checkpoint that resumes at the next instruction, and waits while a RECVV is
pending (R240) or the stack lacks room; a thread that pushes no records pushes none. -/
def ckptBody (s : State) : Effort :=
  if !s.th.bound || !s.th.pushes then .done s.advance
  else if s.recvPending then .parked (s.parkOn .issue)
  else if s.th.rw.free < 5 then .parked (s.parkOn (.stack 5))
  else .done (s.checkpoint s.th.w (s.th.pc + 4)).advance

/-- MTS (R358): the special register := w[a], with the register's own effects. -/
def execMts (a : Reg) (c : BitVec 12) (s : State) : Result :=
  let i : Instr := .mts a c
  issue i s (csrCause i s.th c.toNat) (wRegs [a]) fun s =>
    if c = 0x02A then ckptBody s else .done (s.setCsr c.toNat (s.rd a)).advance

end Sys2Proof.Machine
end

