-- ==== Sys2Proof/Machine/Messages.lean ====
section
/-! DEFINITION. Messages: SENDV, RECVV and MDONE (15_time_axes.md R239 to R241; 22 R366, R371, 21 R355), and the steps of the network
interface: arrival, refusal, acknowledgement and resending (R237, R238), and anti-messages (R249). -/
namespace Sys2Proof.Machine

/-! ### Sending -/

/-- A message in the retry buffer of its sender's core: from when it is sent until its receiver accepts it (R238). -/
def Message.buffered (m : Message) : Bool :=
  match m.st with
  | .flight | .refused _ => true
  | _ => false

/-- The retry buffer of the core is full (R238); what a partition that is switched out has there waits outside it (log entry 20). -/
def State.bufferFull (s : State) (c : Cid) : Bool := 8 ≤ (s.messages.filter (fun m => m.src == c && m.buffered && !s.away m.part)).length

/-- A thread handle given as an address (03_addresses.md R35; 01_tutorial.md R12): the logical core and slot, or the cause. -/
def resolveHandle (p : Partition) (ag : Agent) (h : Word) : Except Cause (BitVec 7 × BitVec 6 × BitVec 3) :=
  if !addrMbz h || addrSpace h = 1 || addrSpace h = 2 || bits h 20 3 ≠ 0 then .error (causeOf 0x05 h)
  else
    match resolveLocal p ag h with
    | none => .error (causeOf 0x06 h)
    | some (y, x) => .ok (y, x, h.extractLsb' 0 3)

/-- The payload's local offset, or the first cause of R239's checks. -/
def payloadOff (p : Partition) (t : Thread) (a : Word) (n : Nat) : Except Cause Nat :=
  if !addrMbz a || addrSpace a = 1 || addrSpace a = 2 then .error (causeOf 0x05 a)
  else if bits a 2 0 ≠ 0 then .error (causeOf 0x04 a)
  else
    match resolveLocal p t.agent a with
    | none => .error (causeOf 0x06 a)
    | some (y, x) =>
      if (y, x) ≠ (t.ident.ly, t.ident.lx) then .error (causeOf 0x05 a)
      else if localBytes < bits a 20 0 + 8 * n then .error (causeOf 0x06 a)
      else .ok (bits a 20 0)

/-- The axis that a thread's messages hold, with its partition (R233, R274). -/
def Thread.axisKey (t : Thread) : Option (BitVec 6 × Nat) := if t.bound then some (t.part, t.axisNum) else none

/-- A message or anti-message of the current thread set on its way. -/
def State.launchMessage (s : State) (dest : Tid) (destHandle vt : Word) (seq : Half) (payload : List Word) (anti : Bool) : State :=
  { s.stamped with messages := s.messages ++
      [⟨s.th.part, s.th.cid, s.th.handle, s.th.axisKey, dest, destHandle, vt, seq, payload, anti, .flight, s.stamp⟩] }

/-- The core to which messages for logical (y, x) go (10_traps.md R169). -/
def State.destTid (s : State) (y : BitVec 7) (x : BitVec 6) (slot : BitVec 3) : Tid := mkTid (s.part.physical y x) slot

/-- The effect of SENDV of `n` words (R239). -/
def sendBody (n : Nat) (handle vt payload : Word) (s : State) : Effort :=
  match s.reportAt payload true with
  | some c => .trap c
  | none =>
    match resolveHandle s.part s.th.agent handle with
    | .error c => .trap c
    | .ok (y, x, slot) =>
      match payloadOff s.part s.th payload n with
      | .error c => .trap c
      | .ok off =>
        let pl := s.ownPlace s.th off
        if s.accessWaits false pl.key (8 * n) || s.stalled payload (8 * n) false then .parked (s.parkOn .issue)
        else
          match dataError s pl payload (8 * n) with
          | some c => .trap c
          | none =>
            if s.bufferFull s.th.cid then .parked (s.parkOn .issue)
            else if s.th.logs && s.th.rw.free = 0 then .parked (s.parkOn (.stack 1))
            else
              let h := mkHandle y x slot
              let seq := s.th.ring.seq
              let ws := unitWords s s.part pl n
              let s1 := if s.th.logs then s.pushRecord h 2 0 false false (zx seq) vt else s
              let s2 := (s1.launchMessage (s.destTid y x slot) h vt seq ws false).mapCore fun c => { c with msent := c.msent + 1 }
              .done (s2.mapTh fun t => { t with ring := { t.ring with seq := seq + 1 } }).advance

/-- SENDV (R239): illegal for a bound thread at a VT below its LVT. -/
def execSendv (d a b c : Reg) (s : State) : Result :=
  let i : Instr := .sendv d a b c
  let n := if bits (s.rd d) 3 0 = 0 then 16 else bits (s.rd d) 3 0
  issue i s (if s.th.bound && s.rd b < s.th.ax.lvt then some (illegal i) else none) (wRegs [d, a, b, c]) fun s =>
    sendBody n (s.rd a) (s.rd b) (s.rd c) s

/-! ### Receiving -/

/-- One message is before another in (VT, sender handle, SEQ) order (R240). -/
def msgBefore (x y : Nat × Word × Word) : Bool :=
  let k (m : Nat × Word × Word) : Nat := m.2.1.toNat * 2 ^ 48 + hdrSender m.2.2 * 2 ^ 32 + hdrSeq m.2.2
  k x < k y

/-- The candidate of the thread's ring (R240). -/
def State.candidate (s : State) (t : Thread) : Option (Nat × Word × Word) :=
  ((s.slots t).filter (fun m => hdrState m.2.2 ≤ 1)).foldl (fun best m =>
    match best with
    | none => some m
    | some b => if msgBefore m b then some m else some b) none

/-- RECVV needs a checkpoint before it delivers a message at `vt` (R240, R268). -/
def Thread.needsCheckpoint (t : Thread) (vt : Word) : Bool := t.ax.lvt < vt && t.bound && t.pushes

/-- The current thread's RECVV at `pc`, with the registers as it issued, delivers the message `m` (R240). -/
def State.deliver (s : State) (m : Nat × Word × Word) (regs : Vector Word 16) (pc : Word) : State :=
  let s1 := if s.th.needsCheckpoint m.2.1 then s.checkpoint regs pc else s
  let s2 := s1.mapTh fun t => if t.ax.lvt < m.2.1 then { t with ax := { t.ax with lvt := m.2.1 } } else t
  s2.setSlot s2.th m.1 1

/-- The effect of RECVV (R240): the lowest message is delivered, or the destination stays pending. -/
def recvBody (d la : Reg) (s : State) : Effort :=
  if s.recvPending then .parked (s.parkOn .issue)
  else
    match s.candidate s.th with
    | none => .done (s.wait d la (.message s.th.w)).advance
    | some m =>
      if s.th.needsCheckpoint m.2.1 && s.th.rw.free < 5 then .parked (s.parkOn (.stack 5))
      else .done ((s.deliver m s.th.w s.th.pc).resultNow d la (ownAddr m.1)).advance

/-- RECVV (R240). -/
def execRecvv (d l : Reg) (s : State) : Result := issue (.recvv d l) s none (wRegs [d]) (recvBody d l)

/-- A pending RECVV of the current thread finds a message (R240, R366): it is delivered; without room for the checkpoint the
thread parks first. -/
def State.recvArrives (s : State) : State :=
  match s.th.pipe.pend.find? (fun p => match p.st with
    | .message _ => true
    | _ => false), s.candidate s.th with
  | some p, some m =>
    match p.st with
    | .message regs =>
      if s.th.needsCheckpoint m.2.1 && s.th.rw.free < 5 then
        s.mapTh fun t => { t with pipe := { t.pipe with park := some (.stack 5), parkedAt :=
          if t.pipe.park.isSome then t.pipe.parkedAt else s.cycle } }
      else (s.deliver m regs p.pc).mapTh (·.arrive p.reg ((ownAddr m.1).setWidth 512))
    | _ => s
  | _, _ => s

/-- MDONE (R241): a delivered message of the thread's ring becomes DONE; in every other case nothing changes. -/
def State.markDone (s : State) (a : Word) : State :=
  if !addrMbz a || addrSpace a = 1 || addrSpace a = 2 then s
  else if resolveLocal s.part s.th.agent a ≠ some (s.th.ident.ly, s.th.ident.lx) then s
  else
    match (s.slots s.th).find? (fun m => m.1 = bits a 20 0) with
    | some m => if hdrState m.2.2 = 1 then (s.setSlot s.th m.1 2).freeSlots s.th.tid else s
    | none => s

def execMdone (a : Reg) (s : State) : Result :=
  simple (.mdone a) s (wRegs [a]) fun s => (s.markDone (s.rd a)).advance

/-! ### The network interface -/

/-- The thread to which a message is addressed: the active one with its handle (R237; 10_traps.md R169). -/
def State.receiver (s : State) (m : Message) : Option Thread :=
  s.activeThreads.find? (fun t => t.part == m.part && t.handle == m.destHandle)

/-- The thread of a save area to which it is addressed (R168): the message is refused until that runs again (log entry 20). -/
def State.savedThread (s : State) (m : Message) : Option SavedThread :=
  let a := (s.partOf m.part).save
  (a.threads ++ a.outThreads).find? (fun x => x.thread.handle == m.destHandle)
def State.savedReceiver (s : State) (m : Message) : Bool := (s.savedThread m).isSome

/-- Word 1 of a message's header (R236). -/
def msgWord (m : Message) (state : Nat) (raised : Bool) : Word :=
  BitVec.ofNat 64 (m.seq.toNat * 2 ^ 32 + bits m.handle 33 21 * 2 ^ 19 + bits m.handle 2 0 * 2 ^ 16
    + m.payload.length % 32 * 2 ^ 11 + state * 2 ^ 8 + (if raised then 2 ^ 7 else 0))

/-- Messages of one pair of cores. -/
def samePair (a b : Message) : Bool := a.src == b.src && tidCore a.dest == tidCore b.dest

/-- Everything of the pair that was sent before the message has arrived (02_module.md R26). -/
def State.pathClear (s : State) (m : Message) : Bool := !s.pathBusy m.src (tidCore m.dest) m.sent

/-- The number of a message, in the order first sent, is the place in the list. -/
def State.setMsg (s : State) (n : Nat) (st : MsgState) : State :=
  { s with messages := s.messages.mapIdx (fun k m => if k = n then { m with st := st } else m) }

/-- Message `n` is the first of its pair that is still on its way, and nothing else of the pair is before it (02_module.md R26); a core in
replay mode takes nothing from the mesh (10_traps.md R175), nor a partition that is switched out (R171). -/
def State.firstFlight (s : State) (n : Nat) (m : Message) : Bool :=
  !s.replays (tidCore m.dest) && !s.away m.part &&
    !(s.messages.take n).any (fun x => samePair x m && x.st = .flight && !s.away x.part) && s.pathClear m

/-- An earlier message of the pair stands refused (R237). -/
def State.behindRefused (s : State) (n : Nat) (m : Message) : Bool :=
  (s.messages.take n).any (fun x => samePair x m && !s.away x.part && (match x.st with
    | .refused _ => true
    | _ => false))

/-- A pad record at the tail when the slot does not fit before the end of the ring (R237). Its VT and sender are not stated, so
they are free values (log entry 4). -/
def State.padRing (s : State) (t : Thread) (n : Nat) : State :=
  if t.ring.base + t.ring.size < t.ring.tail + n then
    let (f, s1) := s.freeWord
    let (g, s2) := s1.freeWord
    let gap := t.ring.base + t.ring.size - t.ring.tail
    (s2.ringWrite t t.ring.tail 16 [f, setBits (setBits g 15 11 0) 10 0 (4 * 2 ^ 8)]).putThread
      { t with ring := { t.ring with tail := t.ring.base, used := t.ring.used + gap } }
  else s

/-- The message written into the ring, header last, with its records in the receive log; a round in progress counts its VT
(R234, R237; 10_traps.md R174). -/
def State.writeMessage (s : State) (tid : Tid) (m : Message) (vt : Word) (raised : Bool) : State :=
  let n := slotBytes m.payload.length
  let s1 := (s.padRing (s.thread tid) n).freeSlots tid
  let t := s1.thread tid
  let off := t.ring.tail
  let hdr := msgWord m 0 raised
  let s2 := (s1.ringWrite t (off + 16) (8 * m.payload.length) m.payload).ringWrite t off 16 [vt, hdr]
  let s3 := s2.putThread { t with ring := { t.ring with tail := t.ring.next off n, used := t.ring.used + n } }
  let s4 := (s3.updCore t.cid fun c => { c with mrecv := c.mrecv + 1 }).logArrival t.cid 0 t.slot m.handle (BitVec.ofNat 64 off)
  let s5 := s4.logContinuation t.cid (vt :: hdr :: m.payload)
  s5.updPart t.part fun p => { p with round := p.round.map fun r =>
    { r with low := some (match r.low with
      | some x => if x < vt then x else vt
      | none => vt) } }

/-- A message reaches its receiver's ring (R237, R238, R242): the head passes over what software has freed, and it is written, refused, or
discarded. -/
def State.receive (s : State) (n : Nat) (m : Message) : State :=
  match s.receiver m with
  | none => if s.savedReceiver m then s.setMsg n (.refused s.cycle) else (s.updCore (tidCore m.dest) fun c => { c with discarded := c.discarded + 1 }).setMsg n .accepted
  | some t =>
    let s := s.freeSlots t.tid
    let t := s.thread t.tid
    if !t.ring.ok then (s.updCore t.cid fun c => { c with discarded := c.discarded + 1 }).setMsg n .accepted
    else
      let h := s.hznOf t
      let raised := t.bound && m.vt < h
      let vt := if raised then h else m.vt
      let straggler := t.bound && vt < t.ax.lvt
      let s1 := if straggler then s.rollback t.tid vt else s
      let need := slotBytes m.payload.length
      let gap := if t.ring.used ≠ 0 && t.ring.base + t.ring.size < t.ring.tail + need then t.ring.base + t.ring.size - t.ring.tail
        else 0
      let free := t.ring.size - t.ring.used
      let keep := if straggler then 0 else t.ring.size / 8
      if need + gap + keep ≤ free then (s1.writeMessage t.tid m vt raised).setMsg n .accepted
      else s1.setMsg n (.refused s.cycle)

/-- The positive message of an anti-message in the ring (R249). -/
def State.positive (s : State) (t : Thread) (m : Message) : Option (Nat × Word × Word) :=
  (s.slots t).find? (fun x => hdrState x.2.2 ≠ 4 && hdrSeq x.2.2 = m.seq.toNat &&
    hdrSender x.2.2 = bits m.handle 33 21 * 8 + bits m.handle 2 0)

/-- An anti-message to a thread that stands in a save area: its ring is the one in its own logical core's memory, and the event waits with the
thread (R249; 10_traps.md R169). -/
def State.savedAnti (s : State) (n : Nat) (m : Message) (x : SavedThread) : State :=
  match (if x.thread.bound then s.positive x.thread m else none) with
  | none => s.setMsg n .accepted
  | some y =>
    match hdrState y.2.2 with
    | 0 => (s.setSlot x.thread y.1 3).setMsg n .accepted
    | 1 | 2 => (s.updSavedBy m.part (·.num = x.num) (·.event y.2.1)).setMsg n .heldAtReceiver
    | _ => s.setMsg n .accepted

/-- An anti-message reaches its receiver (R249). -/
def State.receiveAnti (s : State) (n : Nat) (m : Message) : State :=
  match s.receiver m with
  | none => (s.savedThread m).elim (s.setMsg n .accepted) (s.savedAnti n m)
  | some t =>
    let s0 := s.logArrival t.cid 1 t.slot m.handle m.vt
    match (if t.bound then s0.positive t m else none) with
    | none => s0.setMsg n .accepted
    | some x =>
      match hdrState x.2.2 with
      | 0 => ((s0.setSlot t x.1 3).freeSlots t.tid).setMsg n .accepted
      | 1 => (s0.rollback t.tid x.2.1).setMsg n .heldAtReceiver
      | 2 => (s0.rollback t.tid x.2.1).setMsg n .heldAtReceiver
      | _ => s0.setMsg n .accepted

/-- A held anti-message whose positive is unprocessed again annihilates it; one whose positive or receiver is gone is discarded
(R249). -/
def State.annihilate (s : State) (n : Nat) (m : Message) : State :=
  if m.anti && m.st = .heldAtReceiver then
    match s.receiver m with
    | none => if s.savedReceiver m then s else s.setMsg n .accepted
    | some t =>
      match s.positive t m with
      | none => s.setMsg n .accepted
      | some x => if hdrState x.2.2 = 0 then ((s.setSlot t x.1 3).freeSlots t.tid).setMsg n .accepted else s
  else s

/-- Something done with message `n`, when there is one that `p` picks, whose partition is not switched out. -/
def State.withMsg (s : State) (n : Nat) (p : Message → Bool) (f : Message → State) : State :=
  match s.messages[n]? with
  | some m => if p m && !s.away m.part then f m else s
  | none => s

/-- MESSAGE_ARRIVAL (R237): message `n` arrives, in the order of its pair. -/
def execMessageArrival (n : Half) (s : State) : Result :=
  .next (s.withMsg n.toNat (fun m => !m.anti && m.st = .flight && s.firstFlight n.toNat m) fun m =>
    if s.behindRefused n.toNat m then s.setMsg n.toNat (.refused s.cycle) else s.receive n.toNat m)

/-- ANTI_MESSAGE_ARRIVAL (R249): anti-message `n` arrives, or one held at its receiver meets its positive again. -/
def execAntiMessageArrival (n : Half) (s : State) : Result :=
  .next (s.withMsg n.toNat (fun m => m.anti) fun m =>
    match m.st with
    | .flight =>
      if !s.firstFlight n.toNat m then s
      else if s.behindRefused n.toNat m then s.setMsg n.toNat (.refused s.cycle)
      else s.receiveAnti n.toNat m
    | .heldAtReceiver => s.annihilate n.toNat m
    | _ => s)

/-- MESSAGE_ACKNOWLEDGE (R238): the retry buffer's entry of an accepted message is freed, and the axis it held moves. -/
def execMessageAcknowledge (n : Half) (s : State) : Result :=
  .next (s.withMsg n.toNat (fun m => m.st = .accepted) fun m =>
    let s1 : State := { s with messages := s.messages.eraseIdx n.toNat }
    match m.srcAxis with
    | some (_, a) => if 64 ≤ a then s1.recompute (BitVec.ofNat 14 a) else s1
    | none => s1)

/-- MESSAGE_RESEND (R238): 256 cycles after its NAK the first refused message of a pair is sent again, and those refused behind
it follow. -/
def execMessageResend (n : Half) (s : State) : Result :=
  .next (s.withMsg n.toNat (fun _ => true) fun m =>
    match m.st with
    | .refused at_ =>
      if at_ + Config.resendCycles ≤ s.cycle && !s.behindRefused n.toNat m then
        { s with messages := s.messages.map (fun x => if samePair x m then (match x.st with
            | .refused _ => { x with st := .flight }
            | _ => x) else x) }
      else s
    | _ => s)

end Sys2Proof.Machine
end

