-- ==== Sys2Proof/Machine/Effects.lean ====
section
/-! DEFINITION. Deferred effects: DEFER (15_time_axes.md R250, R251; 17_run_ahead.md R279; 20 R329), their performance (15 R252),
cancellation (17 R279) and the host effect ring (18_host.md R293). -/
namespace Sys2Proof.Machine

/-! ### The host effect ring -/

/-- The ring has no room for another entry (R293). -/
def Partition.ringFull (p : Partition) : Bool := p.erlog ≠ 0 && 2 ^ p.erlog.toNat ≤ (p.erCount - p.erhead).toNat

/-- One entry of eight words and the tail, as a batch of one; without a ring it is discarded (R293). -/
def State.postRing (s : State) (n : BitVec 6) (ws : List Word) : State :=
  let p := s.partOf n
  if p.erlog = 0 then s
  else
    let at_ := hostKey (p.erbase.toNat + 64 * (p.erCount.toNat % 2 ^ p.erlog.toNat))
    let m := (writeWords s.mem at_ ws).writeN (hostKey p.ertail.toNat) 8 (p.erCount + 1).toNat
    { s with mem := m }.updPart n fun p => { p with erCount := p.erCount + 1 }

/-- Word 0 of an entry: KIND and the axis (R293). -/
def ringWord (kind : Nat) (axis : Option Nat) : Word := BitVec.ofNat 64 (kind + axis.getD 0 % 2 ^ 14 * 2 ^ 16)

/-- A WITHDRAW or FAULT entry with word 2 as given. -/
def State.postShort (s : State) (e : Effect) (kind : Nat) (x : Word) : State :=
  let (f, s1) := s.freeWords 5
  s1.postRing e.part ([ringWord kind e.axis, e.id, x] ++ f)

/-! ### Performing an effect -/

/-- The filing thread as an agent (R252). -/
def Effect.agent (e : Effect) : Agent := ⟨e.owner, e.part, e.ly, e.lx, e.user⟩

/-- The horizon has passed the entry, or it counts as passed (R251, R341). -/
def State.effectPassed (s : State) (e : Effect) : Bool :=
  e.passed || (match e.axis with
    | none => true
    | some n => e.vt < s.axisHorizon e.part n)

/-- What performing an effect comes to. -/
inductive Performed where
  /-- It is performed. -/
  | done (s : State)
  /-- Its access fails, and a FAULT record is left. -/
  | fault (f : Effect)
  /-- It waits: for the host effect ring, behind a job's footprint (06_ordering.md R104), or for traffic on its path (02_module.md R26). -/
  | waits
  /-- Its store waits at its memory, on the word of the key given (03_addresses.md R49; 05_work.md R84). -/
  | queued (key : Nat) (s : State)

/-- STORE or STF performed as a plain ST or STF of the filing thread (R252), by the core's interface or with `own` by its DEFER, which
with `keep` leaves the entry in the queue. -/
def State.effectAccess (s : State) (e : Effect) (own keep : Bool) : Performed :=
  match resolve s e.agent (if e.kind = 1 then .stf else .store) 8 e.addr with
  | .error c => .fault { e with kind := 15, value := c.tval, passed := true, left := false }
  | .ok pl =>
    let w : Waiter := ⟨if own then some e.owner else none, pl, 8, e.addr, .effect e own keep, e.value.setWidth 512, 0, none, none, 0⟩
    if (s.coreOf (tidCore e.owner)).scoreboard e.addr 8 true || s.pathTaken (tidCore e.owner) pl.key then .waits
    else if (s.heldAgainst (some e.party) pl.key 8).isSome then .queued pl.key (s.enlist w)
    else
      match pl.special with
      | .doorbell q _ =>
        if 16 ≤ (s.dispenser q).tasks.length then .queued pl.key (s.enlist { w with pl := pl.bellIn q })
        else .done (s.queueTask q e.value e.handle)
      | .watchdog => .done (s.updPart e.part (·.wdRestart s.cycle))
      | .none | .peerDoorbell =>
        let s1 := s.storeAt pl e.owner (if e.kind = 1 then 2 else 0) 8 e.value.toNat
        .done (if e.kind = 1 then s1.changeBit pl e.owner true else s1)

/-- The effect is performed, or waits (R252; 18_host.md R293). -/
def State.performEffect (s : State) (e : Effect) (own keep : Bool) : Performed :=
  if e.kind.toNat < 2 then s.effectAccess e own keep
  else if (s.partOf e.part).ringFull then .waits
  else if e.kind = 2 then .done (s.postRing e.part ([ringWord 0 e.axis, e.id] ++ e.entry))
  else if e.kind = 14 then .done (s.postShort e 1 e.vt)
  else .done (s.postShort e 2 e.value)

/-- An effect of the core waits at a memory: the next is not begun (R252). -/
def State.effectOut (s : State) (c : Cid) : Bool :=
  s.waiters.any fun w => match w.op with
    | .effect e _ _ => tidCore e.owner == c
    | _ => false

/-- One entry comes before another: ascending (v, order of filing) (R252). -/
def Effect.before (a b : Effect) : Bool := a.vt < b.vt || (a.vt = b.vt && a.order < b.order)

/-- The next passed entry of a core (R252). -/
def State.nextEffect (s : State) (c : Core) : Option Effect :=
  (c.commits.filter (fun e => !e.left && s.effectPassed e)).foldl (fun best e =>
    match best with
    | none => some e
    | some b => if e.before b then some e else some b) none

/-- The commit queue with an entry replaced, or removed. -/
def Core.replaceEffect (c : Core) (e : Effect) (by_ : Option Effect) : Core :=
  { c with commits := (c.commits.filter (· != e)) ++ by_.toList }

/-- DEFERRED_EFFECT_PERFORM (R252): core `c` performs its next passed entry; one whose store waits at its memory leaves the queue when
that is performed. -/
def execDeferredEffectPerform (c : Cid) (s : State) : Result :=
  .next (if s.effectOut c then s
    else
      match s.nextEffect (s.coreOf c) with
      | none => s
      | some e =>
        match s.performEffect e false false with
        | .waits => s
        | .queued _ s1 => s1
        | .done s1 => s1.updCore c (·.replaceEffect e none)
        | .fault f => s.updCore c (·.replaceEffect e (some f)))

/-! ### Cancellation (R279) -/

/-- The entry as it stands after its cancellation: a HELD entry is gone, one marked as left becomes a WITHDRAW record, and the
records on their way to the ring stay. -/
def Effect.cancelled (e : Effect) : Option Effect :=
  if 14 ≤ e.kind.toNat then some e
  else if e.left then some { e with kind := 14, left := false, passed := true } else none

/-- The newest entry of a thread with the id and VT (R251). -/
def Core.newestEffect (c : Core) (owner : Tid) (id vt : Word) : Option Effect :=
  (c.commits.filter (fun e => e.owner == owner && e.saved.isNone && e.live && e.id == id && e.vt == vt && e.kind.toNat < 14)).foldl (fun best e =>
    match best with
    | none => some e
    | some b => if b.order < e.order then some e else some b) none

/-- The effect of undoing a deferred-effect record (R245, R251). -/
def Core.cancelEffect (c : Core) (owner : Tid) (id vt : Word) : Core :=
  match c.newestEffect owner id vt with
  | none => c
  | some e => c.replaceEffect e e.cancelled

/-- Every entry of a thread bound to axis `n` of partition `p` at VT `v` or above is cancelled (R278). -/
def Core.cancelFrom (c : Core) (p : BitVec 6) (n : Nat) (v : Word) : Core :=
  { c with commits := c.commits.filterMap (fun e => if e.live && e.filedOn p n && v ≤ e.vt then e.cancelled else some e) }

/-! ### DEFER -/

/-- Entries that count against the queue's 64 (R251). -/
def Core.queued (c : Core) : Nat := (c.commits.filter (fun e => e.kind.toNat < 14)).length

/-- The effect that a record describes, filed at VT `v` by the current thread; its target is resolved as the thread resolves it. -/
def State.effectOf (s : State) (ws : List Word) (id v : Word) : Effect :=
  { owner := s.th.tid, slot := tidSlot s.th.home, part := s.th.part, ly := s.th.ident.ly, lx := s.th.ident.lx, user := s.th.isUser,
    axis := if s.th.bound then some s.th.axisNum else none, id := id, vt := v,
    kind := BitVec.ofNat 4 (bits (recWord ws 0) 7 4), cls := BitVec.ofNat 2 (bits (recWord ws 0) 1 0),
    addr := s.absAddr (recWord ws 1), value := recWord ws 2, entry := (ws.drop 2).take 6,
    passed := !s.th.bound, left := false, live := true, saved := none, order := s.nextId }

/-- The record's word 0 is refused (R250, R251). -/
def effectRefused (w : Word) : Bool := 2 < bits w 7 4 || bits w 1 0 = 3 || bits w 63 8 ≠ 0 || bits w 3 2 ≠ 0

/-- The entry in the queue of the thread's core. -/
def State.file (s : State) (e : Effect) : State :=
  { s.mapCore fun c => { c with commits := c.commits ++ [e] } with nextId := s.nextId + 1 }

/-- The record of the effect, when the thread logs (R246). -/
def State.logEffect (s : State) (e : Effect) : State :=
  if s.th.logs then s.pushRecord 0 3 0 false false e.id e.vt else s

/-- Another entry of the core comes before the effect, or its store waits (R252). -/
def State.effectAhead (s : State) (e : Effect) : Bool :=
  s.effectOut s.core.cid || (s.nextEffect s.core).any (·.before e)

/-- What the thread's DEFER has copied of its record, or no longer needs (R251). -/
def State.copied (s : State) (ws : Option (List Word)) : State := s.mapTh fun t => { t with pipe := { t.pipe with record := ws } }

/-- An effect performed within its DEFER in its turn, and with `keep` kept in the queue marked as left (R279). -/
def State.performNow (s : State) (e : Effect) (keep : Bool) : Effort :=
  let kept (s : State) : State := if keep then s.file { e with left := true } else s
  if s.effectAhead e then .parked (s.parkOn .issue)
  else
    match s.performEffect e true keep with
    | .waits => .parked (s.parkOn .issue)
    | .queued key s1 => .parked (s1.parkOn (.full key))
    | .done s1 => .done (((kept s1).logEffect e).copied none).advance
    | .fault f => .done ((((kept s).file f).logEffect e).copied none).advance

/-- The effect of a DEFER that has copied its record. -/
def deferCopied (id b : Word) (ws : List Word) (s : State) : Effort :=
  let v := if b < s.th.ax.lvt then s.th.ax.lvt else b
  let e := s.effectOf ws id v
  if 64 ≤ s.core.queued then .parked (s.parkOn .issue)
  else if e.cls = 2 && !s.effectPassed e then .parked (s.parkOn (.horizon v))
  else if s.th.logs && s.th.rw.free = 0 then .parked (s.parkOn (.stack 1))
  else if e.cls = 0 then .done (((s.file e).logEffect e).copied none).advance
  else s.performNow e (e.cls = 1 && !s.effectPassed e)

/-- The effect of DEFER of the record at `addr` with effect id `id` and VT `b` (R251): it copies the record at its issue, and goes on with the
copy where it parked. -/
def deferBody (i : Instr) (id addr b : Word) (s : State) : Effort :=
  match s.th.pipe.record with
  | some ws => deferCopied id b ws s
  | none =>
    match s.reportAt addr true with
    | some c => .trap c
    | none =>
      match resolve s s.th.agent .unitRead 64 addr with
      | .error c => .trap c
      | .ok pl =>
        if s.accessWaits false pl.key 64 || s.stalled addr 64 false then .parked (s.parkOn .issue)
        else
          match dataError s pl addr 64 with
          | some c => .trap c
          | none =>
            let ws := unitWords s s.part pl 8
            if effectRefused (recWord ws 0) then .trap (illegal i) else deferCopied id b ws (s.copied (some ws))

/-- DEFER (R251): files the effect of the record at w[a] with id w[d] at VT max(w[b], LVT). -/
def execDefer (d a b : Reg) (s : State) : Result :=
  issue (.defer d a b) s none (wRegs [d, a, b]) fun s => deferBody (.defer d a b) (s.rd d) (s.rd a) (s.rd b) s

end Sys2Proof.Machine
end

