-- ==== Sys2Proof/Machine/Work.lean ====
section
/-! DEFINITION. The work group: WFLD (05_work.md R74), WFW (R83), WLPUSH and WLPOP (R87; 23 R397), LAUNCH (R82; 21 R349), GANG and
UNGANG (04_threads.md R60; 21 R339, 22 R380), YIELD (05_work.md R89) and MIG (04_threads.md R68; 21 R359). -/
namespace Sys2Proof.Machine

/-- WFLD's result: field `n` of `x` by the widths of WIDW (R74). -/
def widField (widw x : Word) (n : Nat) : Word :=
  let lo := widthSum widw n
  if widthOf widw n = 0 then 0 else BitVec.ofNat 64 (bits x (lo + widthOf widw n - 1) lo)

/-- WFLD (R74): w[d] := field c of w[a]. -/
def execWfld (d a c : Reg) (s : State) : Result :=
  simple (.wfld d a c) s (wRegs [d, a]) fun s => (s.wr d (widField s.th.ident.widw (s.rd a) c.toNat)).advance

/-- WFW, WLPUSH and WLPOP begin once every prior plain access is performed (R397). -/
def afterPlain (s : State) (f : State → Effort) : Effort :=
  if s.plainPending || s.recvPending then .parked (s.parkOn .issue) else f s

/-- WFW (R83): the newest entry of the core's list, else the quad's oldest task, else the thread parks, as it does behind a thread that is to take
an item first. Illegal in a gang (R61). -/
def execWfw (d : Reg) (s : State) : Result :=
  let i : Instr := .wfw d
  issue i s (if s.th.gang.isSome then some (illegal i) else none) (wRegs [d, 1, 2, 3, 4]) fun s =>
    afterPlain s fun s =>
      match (if (firstWaiting s (fun t => cidQuad t.cid = cidQuad s.th.cid && (s.takeItem t).isSome)).isSome then none else s.takeItem s.th) with
      | some (ws, status, s1) =>
        let (ws, s2) := s1.incomingWork s.th.cid s.th.slot ws status
        .done (s2.mapTh (·.takeWork d ws.1 ws.2)).advance
      | none => .parked (s.parkOn (.work d))

/-- The address of an entry of the thread's work list, in local-absolute form. -/
def State.wlAddr (s : State) : Word := s.th.handle - zx (tidSlot s.th.home) + BitVec.ofNat 64 s.core.wlOff

/-- WLPUSH (R87): w[d] := 1 when the list is full; otherwise the entry is the newest and w[d] := 0. -/
def execWlpush (d a b : Reg) (s : State) : Result :=
  issue (.wlpush d a b) s none (wRegs [d, a, b]) fun s =>
    afterPlain s fun s =>
      if s.core.wlBad then .trap (causeOf 0x06 s.wlAddr)
      else if s.core.wlCap ≤ s.core.wlCount then .done (s.wr d 1).advance
      else
        let s1 := s.appendEntry s.core.cid s.th.tid (s.rd a, s.rd b)
        .done (s1.wr d 0).advance

/-- WLPOP (R87): the newest entry into w[d] and w[d + 1] with w[a] := 1, or w[a] := 0 when the list is empty. -/
def execWlpop (d a : Reg) (s : State) : Result :=
  issue (.wlpop d a) s none (wRegs [d, d + 1, a]) fun s =>
    afterPlain s fun s =>
      if s.core.wlBad then .trap (causeOf 0x06 s.wlAddr)
      else
        match s.newestEntry s.th with
        | none => .done (s.wr a 0).advance
        | some e => .done ((((s.dropNewest s.core.cid).wr d e.1).wr (d + 1) e.2).wr a 1).advance

/-- The effect of LAUNCH (R82). -/
def launchBody (d la : Reg) (addr : Word) (s : State) : Effort :=
  match s.reportAt addr true with
  | some c => .trap c
  | none =>
    match resolve s s.th.agent .unitRead 128 addr with
    | .error c => .trap c
    | .ok pl =>
      if s.accessWaits false pl.key 128 || s.stalled addr 128 false then .parked (s.parkOn .issue)
      else
        match dataError s pl addr 128 with
        | some c => .trap c
        | none =>
          let (st, s1) := s.launchRecord s.th.agent (some s.th.tid) (unitWords s s.part pl 16)
          .done (let (y, s2) := s1.incoming 12 st
            s2.result d la y).advance

/-- LAUNCH (R82): queues the launch of the record at w[a] in the issuer's partition. -/
def execLaunch (d a l : Reg) (s : State) : Result :=
  issue (.launch d a l) s none (wRegs [d, a]) fun s => launchBody d l (s.rd a) s

/-! ### Gangs -/

/-- A copy or gather job of the thread has not retired. -/
def State.hasJob (s : State) : Bool := s.core.jobs.any (·.owner = s.th.tid)
def State.hasJobOf (s : State) (t : Thread) : Bool := (s.coreOf t.cid).jobs.any (·.owner = t.tid)

/-- The physical cores of a gang of `n` at logical (ly, lx) on, none when one offers no slot. -/
def gangCores (p : Partition) (ly : BitVec 7) (lx : BitVec 6) : Nat → Option (List Cid)
  | 0 => some []
  | n + 1 =>
    match gangCores p ly lx n, p.running ly (lx + BitVec.ofNat 6 n) with
    | some cs, some c => some (cs ++ [c])
    | _, _ => none

/-- A follower of the current thread at slot `tid` (R60, R339). -/
def State.follower (s : State) (tid : Tid) (k n : Nat) : Thread :=
  let l := s.th
  let lx := l.ident.lx + BitVec.ofNat 6 k
  let base := newThread tid l.part l.ident.ly lx
  let launch := s.launches.find? (fun x => some x.id == l.launch)
  let e := (launch.map (·.extents l.ident.ly lx)).getD (0, 0)
  { base with
    w := l.w
    pc := l.pc
    tstat := setBit l.tstat tROAM false
    base := l.base
    ident := { base.ident with wid := l.ident.wid, widw := l.ident.widw, org := e.1, ext := e.2, gidx := BitVec.ofNat 3 k }
    trap := { base.trap with tvec := (launch.map (·.tvec s.part)).getD s.part.tvec }
    rw := { base.rw with rbvec := (launch.map (fun x => recWord x.record 11)).getD 0 }
    gang := some (l.tid, BitVec.ofNat 3 n)
    launch := l.launch }

/-- The followers seated, from number `k` of the group on. -/
def State.seatFollowers (s : State) (n k : Nat) : List Cid → State
  | [] => s
  | c :: cs => (if k = 0 then s else s.seat (s.follower (mkTid c s.th.slot) k n)).seatFollowers n (k + 1) cs

/-- The effect of GANG of size 2^c (R60). DESIGN CHOICE (log entry 90): where a member's logical core runs on no physical core (10_traps.md R168)
no gang forms, and the status is 1; the table names no such case. -/
def gangBody (d c : Reg) (s : State) : Effort :=
  s.whenSettled fun s =>
    let s := s.mapTh (·.writeBack)
    let n := 2 ^ c.toNat
    let lx := s.th.ident.lx.toNat
    if lx % n ≠ 0 ∨ s.part.W < lx + n then .done (s.unitWrite d 2).advance
    else
      match gangCores s.part s.th.ident.ly s.th.ident.lx n with
      | none => .done (s.unitWrite d 1).advance
      | some cs =>
        if (cs.drop 1).any (fun x => s.slotTaken (mkTid x s.th.slot)) then .done (s.unitWrite d 1).advance
        else
          let s1 := (s.unitWrite d 0).advance.mapTh fun t => { t with
            gang := some (t.tid, BitVec.ofNat 3 c.toNat), ident := { t.ident with gidx := 0 } }
          .done (s1.seatFollowers c.toNat 0 cs)

/-- GANG (R60, R339): illegal for a thread in a gang, bound, speculative, boosted, holding or awaiting a word, or with a copy job
that has not retired. -/
def execGang (d c : Reg) (s : State) : Result :=
  let i : Instr := .gang d c
  let bad := s.th.gang.isSome || s.th.bound || s.th.st tSPEC || s.th.st tBOOST || s.th.holding.isSome || s.hasJob
  issue i s (if bad then some (illegal i) else none) (wRegs [d]) (gangBody d c)

/-- UNGANG (R60, R380): the member that executes it leaves the gang, as every member does in the same cycle (R61). -/
def execUngang (s : State) : Result :=
  issue .ungang s (if s.th.gang.isNone then some (illegal .ungang) else none) [] fun s =>
    .done (s.mapTh (·.ungang false)).advance

/-- YIELD (R89): the thread is not eligible for the 64 cycles that follow. -/
def execYield (s : State) : Result :=
  simple .yield s [] fun s =>
    s.advance.mapTh fun t => { t with pipe := { t.pipe with yieldUntil := s.cycle + Config.yieldCycles + 1 } }

/-! ### MIG -/

/-- The effect of MIG toward the address `addr` (R68): 0 on its own core, 2 when a condition of R67 fails, 1 where the target
offers no slot; otherwise the thread departs once its accesses and results are done. -/
def migBody (d : Reg) (addr : Word) (s : State) : Effort :=
  if !addrMbz addr || addrSpace addr = 1 || addrSpace addr = 2 then .trap (causeOf 0x05 addr)
  else
    match resolveLocal s.part s.th.agent addr with
    | none => .trap (causeOf 0x06 addr)
    | some (y, x) =>
      if (y, x) = (s.th.ident.ly, s.th.ident.lx) then .done (s.unitWrite d 0).advance
      else if !s.mayMove then .done (s.unitWrite d 2).advance
      else
        match s.part.running y x with
        | none => .done (s.unitWrite d 1).advance
        | some c =>
          s.whenSettled fun s => .parked (s.depart c none (some d))

/-- MIG (R68): illegal in a gang. -/
def execMig (d a : Reg) (s : State) : Result :=
  let i : Instr := .mig d a
  issue i s (if s.th.gang.isSome then some (illegal i) else none) (wRegs [d, a]) fun s => migBody d (s.rd a) s

end Sys2Proof.Machine
end

