-- ==== Sys2Proof/Machine/Directory.lean ====
section
/-! DEFINITION. The object directories: the commutativity table (16_boosted_tasks.md R257, R258), the judgement of an operation
(R265, R267, R270), its entry (R260, R263) and the events of a cascade. -/
namespace Sys2Proof.Machine

/-! ### The commutativity table -/

/-- CTBASE.EN. -/
def Partition.tableOn (p : Partition) : Bool := bit p.ctbase 0
/-- The SBM address of byte `off` of the table (R257). -/
def Partition.tableAddr (p : Partition) (off : Nat) : Word :=
  BitVec.ofNat 64 (2 ^ 62 + bits p.ctbase 31 28 * 2 ^ 28 + bits p.ctbase 27 11 * 2 ^ 11 + off)
/-- Byte `off` of the table in memory. -/
def Partition.tableKey (p : Partition) (off : Nat) : Nat := sbmKey (bits p.ctbase 31 28) (bits p.ctbase 27 11 * 2 ^ 11 + off)

/-- The verdict (x, y), or the error of its byte (R257, R258). -/
def State.verdict (s : State) (x y : Nat) : Except Cause Nat :=
  if !s.part.tableOn then .ok 0
  else
    let off := 16 * x + y / 4
    if (s.poisonIn (s.part.tableKey off) 1).isSome then .error (causeOf 0x0A (s.part.tableAddr off))
    else .ok (bits (s.mem.read (s.part.tableKey off)) (2 * (y % 4) + 1) (2 * (y % 4)))

/-- Kind row `k`: its inverse's pc and its second word, or the error of one (R257, R258). -/
def State.kindRow (s : State) (k : Nat) : Except Cause (Word × Word) :=
  let off := 1024 + 16 * k
  match s.poisonIn (s.part.tableKey off) 16 with
  | some p => .error (causeOf 0x0A (s.part.tableAddr (off + (p - s.part.tableKey off))))
  | none => .ok (s.mem.word (s.part.tableKey off) &&& ~~~ 3, s.mem.word (s.part.tableKey (off + 8)))

/-! ### Judging -/

/-- The VT of the caller's operation: its task's, or its LVT outside a task (R270). -/
def Thread.opVt (t : Thread) : Word := if t.st tBOOST then t.ax.tvt else t.ax.lvt

/-- (e.TVT, e.OWNER) as one number; handles are below 2^34. -/
def DirEntry.rank (e : DirEntry) : Nat := e.tvt.toNat * 2 ^ 64 + e.owner.toNat

/-- C of R265: the live entries on the object, of the partition, of another task, oldest first. -/
def State.rivals (s : State) (h t : Word) : List DirEntry :=
  s.dir.filter (fun e => e.handle == h && e.part == s.th.part && !(e.owner == s.th.handle && e.tvt == t))

/-- S of R265, with the misses counted; or the cause that ends the judgement, with the misses counted. -/
def sift (k : Nat) (arg0 : Word) : List DirEntry → State → Except (State × Cause) (List DirEntry × State)
  | [], s => .ok ([], s)
  | e :: es, s =>
    match s.verdict e.kind k with
    | .error c => .error (s, c)
    | .ok 0 =>
      let s1 := s.mapPart fun p => { p with ctmiss := field (p.ctmiss + 1) 31 0 }
      if bit s.part.cttrap 0 then .error (s1, causeOf 0x0F (BitVec.ofNat 64 (e.kind * 2 ^ 8 + k)))
      else
        match sift k arg0 es s1 with
        | .error x => .error x
        | .ok (xs, s2) => .ok (e :: xs, s2)
    | .ok v =>
      match sift k arg0 es s with
      | .error x => .error x
      | .ok (xs, s2) => .ok (if v = 3 ∨ (v = 2 ∧ e.arg0 = arg0) then (e :: xs, s2) else (xs, s2))

/-- The entry of least rank. -/
def leastEntry : List DirEntry → Option DirEntry
  | [] => none
  | e :: es =>
    match leastEntry es with
    | none => some e
    | some f => if f.rank < e.rank then some f else some e

/-- S in descending order of (TVT, OWNER). -/
def insertEntry (e : DirEntry) : List DirEntry → List DirEntry
  | [] => [e]
  | f :: fs => if f.rank < e.rank then e :: f :: fs else f :: insertEntry e fs
def descending : List DirEntry → List DirEntry
  | [] => []
  | e :: es => insertEntry e (descending es)

/-- The events of a cascade, one for each owner of S in the order of its first entry: its target is the least TVT of the
owner's entries, and it waits for every entry of the owners before it (R267). -/
def cascadeOf (all : List DirEntry) : List DirEntry → List Nat → List Word → List CascadeEvent
  | [], _, _ => []
  | e :: es, before, done =>
    if done.contains e.owner then cascadeOf all es before done
    else
      let own := all.filter (fun f => f.owner == e.owner)
      ⟨e.part, e.owner, (least (own.map (·.tvt))).getD e.tvt, own.map (·.id), before⟩ ::
        cascadeOf all es (before ++ own.map (·.id)) (e.owner :: done)

/-- What a judgement says. -/
inductive Judged where
  /-- No live operation of another task conflicts. -/
  | clear (s : State)
  /-- The caller gives way: its rollback event is pending. -/
  | givesWay (s : State)
  /-- The caller parks until the entries have left. -/
  | waits (s : State) (ids : List Nat)
  /-- A miss that traps, or an error in the table. -/
  | trapped (s : State) (c : Cause)

/-- The first event of the cascade is sent, and the rest wait (R265, R267). -/
def State.startCascade (s : State) (es : List DirEntry) : State :=
  match cascadeOf es (descending es) [] [] with
  | [] => s
  | e :: rest => ({ s with cascade := s.cascade ++ rest }).rollbackOwner e.part e.owner e.target

/-- The judgement of (k, h, arg0) for the current thread (R265, R270). -/
def State.judge (s : State) (k : Nat) (h arg0 : Word) : Judged :=
  let t := s.th.opVt
  match sift k arg0 (s.rivals h t) s with
  | .error (s1, c) => .trapped s1 c
  | .ok ([], s1) => .clear s1
  | .ok (es, s1) =>
    match leastEntry (es.filter (fun e => e.rank < t.toNat * 2 ^ 64 + s.th.handle.toNat)) with
    | some e =>
      let s2 := if s.th.st tBOOST then s1.mapTh fun x => { x with ax := { x.ax with waittag := some e.id } } else s1
      .givesWay (s2.rollback s.th.tid t)
    | none => .waits (s1.startCascade es) (es.map (·.id))

/-- The ways taken in the set of the object's home directory (R260). -/
def State.waysUsed (s : State) (h : Word) : Nat :=
  (s.dir.filter (fun e => e.die == homeDie h && homeSet e.handle == homeSet h)).length

/-- The task's own entry with the same handle, kind and argument (R263). -/
def State.ownEntry (s : State) (k : Nat) (h arg0 : Word) : Bool :=
  s.dir.any (fun e => e.part == s.th.part && e.owner == s.th.handle && e.tvt == s.th.opVt && e.handle == h && e.kind = k
    && e.arg0 == arg0)

/-- The operation is recorded, or the task's entry is used; none where the set has no free way (R263). DIRMASK then names the
home die. An entry whose TVT the horizon has passed already leaves at once (R261). -/
def State.recordOp (s : State) (k : Nat) (h arg0 : Word) : Option State :=
  let mark (s : State) : State := s.mapTh fun t => { t with ax := { t.ax with dirmask := setBit t.ax.dirmask (homeDie h).toNat true } }
  if s.ownEntry k h arg0 then some (mark s)
  else if 8 ≤ s.waysUsed h then none
  else
    let e : DirEntry := ⟨s.nextId, homeDie h, s.th.part, s.th.axisNum, s.th.handle, s.th.opVt, h, k, arg0, s.th.ax.pushno + 1⟩
    let passed := s.th.bound && e.tvt < s.hznOf s.th
    some (mark { s with dir := if passed then s.dir else s.dir ++ [e], nextId := s.nextId + 1 })

/-! ### Reads by a unit -/

/-- Where `n` aligned pieces of `size` bytes from `a` on lie, or the first cause. -/
def placesFrom (s : State) (ac : Access) (size : Nat) : Nat → Word → Except Cause (List (Word × Place))
  | 0, _ => .ok []
  | n + 1, a =>
    match resolve s s.th.agent ac size a with
    | .error c => .error c
    | .ok pl =>
      match placesFrom s ac size n (a + BitVec.ofNat 64 size) with
      | .error c => .error c
      | .ok ps => .ok ((a, pl) :: ps)

/-- A local range of `n` bytes at offset `off` of logical (y, x) covers a special word (05_work.md R85). -/
def coversSpecial (y : BitVec 7) (x : BitVec 6) (off n : Nat) : Bool :=
  n ≠ 0 && (doorbellOff < off + n || (y = 0 && x = 0 && watchdogOff < off + n))

/-- The address checks of 11_engines.md R180 on a range of `n` bytes: invalid address, misaligned, bounds. A range to be
written covers no special word (05_work.md R85). -/
def rangeCause (s : State) (write : Bool) (n : Nat) (a : Word) : Option Cause :=
  if !addrMbz a then some (causeOf 0x05 a)
  else if a.toNat % 64 ≠ 0 then some (causeOf 0x04 a)
  else
    let inside : Bool :=
      match addrSpace a with
      | 1 =>
        let off := bits a 27 0
        off + n ≤ 2 ^ 28 && sbmAllowed s.part (bits a 31 28) off && sbmAllowed s.part (bits a 31 28) (off + (n - 1))
      | 2 => bits a 47 0 + n ≤ 2 ^ 48
      | _ =>
        match resolveLocal s.part s.th.agent a with
        | none => false
        | some (y, x) =>
          bits a 20 0 + n ≤ localBytes && !(write && coversSpecial y x (bits a 20 0) n)
    if inside then none else some (causeOf 0x06 a)

/-- The first uncorrectable error among some pieces. -/
def piecesError (s : State) (size : Nat) : List (Word × Place) → Option Cause
  | [] => none
  | (a, pl) :: ps => (dataError s pl a size).or (piecesError s size ps)

/-- A unit reads `n` aligned pieces of `size` bytes at `a` for the current thread as one plain access: checks, waits and data
errors, those that `err` finds, as for a plain load (08_encoding.md R141; 10_traps.md R165). -/
def unitAccessBy (err : State → List (Word × Place) → Option Cause) (size n : Nat) (a : Word) (s : State)
    (f : List Place → State → Effort) : Effort :=
  match s.reportAt a true with
  | some c => .trap c
  | none =>
    match placesFrom s .unitRead size n a with
    | .error c => .trap c
    | .ok ps =>
      if ps.any (fun p => s.accessWaits false p.2.key size || s.stalled p.1 size false) then .parked (s.parkOn .issue)
      else
        match err s ps with
        | some c => .trap c
        | none => f (ps.map (·.2)) s

/-- The same, with an error anywhere in the pieces. -/
def unitAccess (size n : Nat) (a : Word) (s : State) (f : List Place → State → Effort) : Effort :=
  unitAccessBy (piecesError · size) size n a s f

/-- The words of some pieces of memory. -/
def pieceWords (s : State) (size : Nat) (ps : List Place) : List Word := (ps.map (fun p => unitWords s s.part p (size / 8))).flatten

/-- An instruction ends with a status in w[d]. -/
def answer (d : Reg) (st : Word) (s : State) : Effort := .done (s.unitWrite d st).advance

/-! ### Events -/

/-- An entry with the number still stands. -/
def State.entryLives (s : State) (id : Nat) : Bool := s.dir.any (·.id = id)

/-- The next event of a cascade is sent once the entries of the owners before have left; an event whose own entries have all
left names nothing that lives and is dropped (R265, R267). -/
def State.sendCascade (s : State) (n : Nat) : State :=
  match s.cascade[n]? with
  | none => s
  | some e =>
    if e.after.any s.entryLives then s
    else
      let s1 : State := { s with cascade := s.cascade.eraseIdx n }
      if e.own.any s.entryLives then s1.rollbackOwner e.part e.owner e.target else s1

/-- DIRECTORY_CASCADE_EVENT (R267). -/
def execDirectoryCascadeEvent (n : Half) (s : State) : Result := .next (s.sendCascade n.toNat)

end Sys2Proof.Machine
end

