-- ==== Sys2Proof/Machine/Prefix.lean ====
section
/-! DEFINITION. The prefix-and-KV unit: BHASH (12_prefix_index.md R200), PFXLOOK (R205), PFXINS (R206), PFXPIN (R208), PFXUNPIN
(R209), ANCM (R211), KVAPP (21 R345 to R348), their table (R201 to R204), their order (R199) and what ROLL does with their
records (R210, R347). -/
namespace Sys2Proof.Machine

/-! ### The result words (R204) -/

def resNone : Word := allOnes
def resFull : Word := allOnes - 1
def resSpec : Word := allOnes - 2
def resBad : Word := allOnes - 3

/-- The unit's result in w[d], under the instruction's lookahead (R198). -/
def unitAnswer (d la : Reg) (x : Word) (s : State) : Effort :=
  let (y, s1) := s.incoming 12 x
  .done (s1.result d la y).advance

/-! ### BHASH and ANCM -/

/-- The chained hash of the tokens onto `h` (R200). -/
def bhash (h : Word) (toks : List Half) : Word :=
  (toks.foldl (fun (acc : Word × Nat) t => (acc.1 ^^^ rotl64 (zx t) (4 * acc.2), acc.2 + 1)) (rotl64 h 13, 0)).1

/-- A half of a place as a unit reads it. -/
def unitHalf (s : State) (pl : Place) : Half := if specialAt s.part pl.space pl.off then 0 else s.halfAt pl

/-- BHASH (R200): w[d] := the hash of the block of 16 tokens at w[b] onto w[a]. -/
def execBhash (d a b l : Reg) (s : State) : Result :=
  issue (.bhash d a b l) s none (wRegs [d, a, b]) fun s =>
    let h := s.rd a
    afterPlain s (unitAccess 4 16 (s.rd b) · fun ps s => unitAnswer d l (bhash h (ps.map (unitHalf s))) s)

/-- The ancestry mask of node `n` (R211), with `fuel` steps left. -/
def ancestry (parent : Nat → Nat) : Nat → Nat → Word → Word
  | 0, _, _ => 0
  | fuel + 1, n, mask =>
    if bit mask n then 0
    else
      let m := setBit mask n true
      let p := parent n
      if p = 0xFF then m else if 64 ≤ p then 0 else ancestry parent fuel p m

/-- The result of ANCM on a parent-pointer table and a node (R211). -/
def ancm (table : Vec) (node : Word) : Word :=
  if 64 ≤ node then 0 else ancestry (fun n => (byteOf table n).toNat) 64 node.toNat 0

/-- ANCM (R211): w[d] := the ancestry mask of node w[b] in the table at w[a]. DEDUCED (log entry 94): the table is read, with its traps, for a
node of 64 or more too. -/
def execAncm (d a b l : Reg) (s : State) : Result :=
  issue (.ancm d a b l) s none (wRegs [d, a, b]) fun s =>
    let node := s.rd b
    afterPlain s (unitAccess 64 1 (s.rd a) · fun ps s =>
      let table := (pieceWords s 64 ps).foldr (fun (w : Word) (acc : Vec) => (acc <<< 64) ||| w.setWidth 512) 0
      unitAnswer d l (ancm table node) s)

/-! ### The table -/

/-- A prefix table: the SBM addresses of its entries and headers and the logarithm of its bucket count (R202). -/
structure PrefixTable where
  ent : Word
  hdr : Word
  logb : Nat
  deriving DecidableEq, Repr

/-- An SBM address in memory. -/
def sbmAt (a : Word) : Nat := sbmKey (bits a 31 28) (bits a 27 0)

/-- The descriptor's words name a table: none where R204 refuses it. -/
def tableOf (ws : List Word) : Option PrefixTable :=
  let e := recWord ws 0
  let h := recWord ws 1
  if addrSpace e ≠ 1 || addrSpace h ≠ 1 || !addrMbz e || !addrMbz h || e.toNat % 128 ≠ 0 || h.toNat % 8 ≠ 0
    || bits (recWord ws 2) 63 5 ≠ 0 || recWord ws 3 ≠ 0 || 19 < bits (recWord ws 2) 4 0 then none
  else some ⟨e, h, bits (recWord ws 2) 4 0⟩

/-- The first address of `n` bytes at SBM address `a` that lies outside what SBMWIN allows or outside the die (R204). -/
def firstOutside (p : Partition) (a : Word) (n : Nat) : Option Word :=
  let off := bits a 27 0
  let limit := Nat.min (2 ^ 28) ((bits p.sbmwin 27 16 + 1) * 65536)
  if !sbmAllowed p (bits a 31 28) off then some a
  else if limit < off + n then some (a + BitVec.ofNat 64 (limit - off)) else none

/-- The first address outside of the areas of the table (R204). DESIGN CHOICE (log entry 93): the entry area's where both lie outside. -/
def PrefixTable.outside (t : PrefixTable) (p : Partition) : Option Word :=
  (firstOutside p t.ent (512 * 2 ^ t.logb)).or (firstOutside p t.hdr (8 * 2 ^ t.logb))

/-- The bucket of a hash (R201). -/
def PrefixTable.bucket (t : PrefixTable) (h : Word) : Nat := (h ^^^ (h >>> 32)).toNat % 2 ^ t.logb

/-- The SBM address of entry `i` and of header `b`. -/
def PrefixTable.entry (t : PrefixTable) (i : Nat) : Word := t.ent + BitVec.ofNat 64 (128 * i)
def PrefixTable.header (t : PrefixTable) (b : Nat) : Word := t.hdr + BitVec.ofNat 64 (8 * b)

/-- Word `n` of entry `i`. -/
def PrefixTable.word (t : PrefixTable) (s : State) (i n : Nat) : Word := s.mem.word (sbmAt (t.entry i) + 8 * n)
def PrefixTable.seq (t : PrefixTable) (s : State) (b : Nat) : Nat := bits (s.mem.word (sbmAt (t.header b))) 15 0

/-- The first error among `n` bytes at SBM address `a` (R204). -/
def sbmError (s : State) (a : Word) (n : Nat) : Option Cause :=
  (s.poisonIn (sbmAt a) n).map fun p => causeOf 0x0A (a + BitVec.ofNat 64 (p - sbmAt a))

/-- Fields of a state word (R202). -/
def swValid (w : Word) : Bool := bit w 63
def swClaimed (w : Word) : Bool := bit w 62
def swPin (w : Word) : Nat := bits w 31 16
def swAge (w : Word) : Nat := bits w 15 0

/-- Words `lo` to `lo + n - 1` of an entry equal those of the key. -/
def PrefixTable.agrees (t : PrefixTable) (s : State) (key : List Word) (i lo n : Nat) : Bool :=
  (List.range n).all (fun k => t.word s i (lo + k) = recWord key (lo + k))

/-- The tag of entry `i` is the key's: HASH, PARENT and TOKENS (R202). -/
def PrefixTable.tagged (t : PrefixTable) (s : State) (key : List Word) (i : Nat) : Bool :=
  t.agrees s key i 1 2 && t.agrees s key i 4 8

/-- A state word with PIN + 1 and AGE := `age`. -/
def swPinned (w : Word) (age : Nat) : Word := setBits (setBits w 31 16 (swPin w + 1)) 15 0 age
/-- The place of an SBM address. -/
def sbmPlace (a : Word) : Place := ⟨.sbm, sbmAt a, bits a 27 0, 0, .none⟩

/-- The table and the key, read and checked, given to `f`; the descriptor's refusal and the bounds of R204. -/
def withTable (d la : Reg) (desc : Word) (s : State) (f : PrefixTable → State → Effort) : Effort :=
  afterPlain s fun s =>
    unitAccess 32 1 desc s fun ps s =>
      match tableOf (pieceWords s 32 ps) with
      | none => unitAnswer d la resBad s
      | some t =>
        match t.outside s.part with
        | some a => .trap (causeOf 0x06 a)
        | none => f t s

/-- An uncorrectable error in words 1 to 11 of a key, the words that are read (R203). -/
def keyError (s : State) (ps : List (Word × Place)) : Option Cause :=
  match ps with
  | [(a, pl), (b, ql)] => (dataError s (pl.up 8) (a + 8) 56).or (dataError s ql b 32)
  | _ => none

/-- The key at `addr` (R203). -/
def withKey (addr : Word) (s : State) (f : List Word → State → Effort) : Effort :=
  unitAccessBy keyError 64 2 addr s fun ps s => f (pieceWords s 64 ps) s

/-! ### PFXLOOK -/

/-- The first way from `i` on, of `n`, with VALID = 1 and the key's tag; each way's second granule is read first (R205). -/
def PrefixTable.probe (t : PrefixTable) (s : State) (key : List Word) : Nat → Nat → Except Cause (Option Nat)
  | 0, _ => .ok none
  | n + 1, i =>
    match (sbmError s (t.entry i + 64) 64).or (sbmError s (t.entry i) 64) with
    | some c => .error c
    | none => if swValid (t.word s i 0) && t.tagged s key i then .ok (some i) else t.probe s key n (i + 1)

/-- PFXLOOK (R205): w[d] := the index of the entry that holds the key's tag. Its loads of the bucket wait for the jobs that write there
(06_ordering.md R104). -/
def execPfxlook (d a b l : Reg) (s : State) : Result :=
  issue (.pfxlook d a b l) s none (wRegs [d, a, b]) fun s =>
    let kaddr := s.rd b
    withTable d l (s.rd a) s fun t s =>
      withKey kaddr s fun key s =>
        let first := 4 * t.bucket (recWord key 1)
        if s.stalled (t.entry first) 512 false then .parked (s.parkOn .issue)
        else
          match t.probe s key 4 first with
          | .error c => .trap c
          | .ok none => unitAnswer d l resNone s
          | .ok (some i) => unitAnswer d l (BitVec.ofNat 64 (i + (if swClaimed (t.word s i 0) then 2 ^ 63 else 0))) s

/-! ### PFXINS -/

/-- The ways of a bucket that may be claimed, in R206's order: free ways upward, then ready unpinned ways, the oldest first. -/
def PrefixTable.candidates (t : PrefixTable) (s : State) (b : Nat) : List Nat :=
  let ways := (List.range 4).map (fun w => 4 * b + w)
  let age (i : Nat) : Nat := (t.seq s b + 65536 - swAge (t.word s i 0)) % 65536
  let ready := ways.filter (fun i =>
    let w := t.word s i 0
    swValid w && !swClaimed w && swPin w = 0)
  ways.filter (fun i => !swValid (t.word s i 0)) ++ ready.foldl (fun acc i => insertWay age i acc) []
where
  /-- Way `i` behind every way at least as old. -/
  insertWay (age : Nat → Nat) (i : Nat) : List Nat → List Nat
    | [] => [i]
    | j :: js => if age j < age i then i :: j :: js else j :: insertWay age i js

/-- The claim of entry `i` for the key (R206 step 5): the step on the state word with the other words of the first granule, and then the
second granule. -/
def PrefixTable.claim (t : PrefixTable) (s : State) (key : List Word) (b i : Nat) : List UnitWrite :=
  [.step (t.entry i) (BitVec.ofNat 64 (2 ^ 63 + 2 ^ 62 + 2 ^ 16 + (t.seq s b + 1) % 65536)) true,
   .store (t.entry i + 8) (sbmPlace (t.entry i + 8)) 0 ((key.drop 1).take 7),
   .store (t.entry i + 64) (sbmPlace (t.entry i + 64)) 0 ((key.drop 8).take 4 ++ [0, 0, 0, 0])]

/-- What steps 3 to 7 of R206 come to under the hold of bucket `b`'s header: the step and the other writes, key word 0 at the place `kpl` among
them, the header last. -/
def PrefixTable.insert (t : PrefixTable) (s : State) (key : List Word) (kaddr : Word) (kpl : Place) (b : Nat) : UnitRest :=
  let seq := t.seq s b
  let keyWrite (x : Word) : UnitWrite := .store kaddr kpl 14 [x]
  let header (n : Nat) : UnitWrite := .store (t.header b) (sbmPlace (t.header b)) 0 [BitVec.ofNat 64 n]
  match ((List.range 4).map (fun w => 4 * b + w)).find? (fun i => swValid (t.word s i 0) && t.tagged s key i) with
  | some i =>
    let w := t.word s i 0
    if swPin w = 65535 then ⟨[header seq], none, resFull⟩
    else
      ⟨[.step (t.entry i) (swPinned w seq) false, keyWrite allOnes, header seq], none,
        BitVec.ofNat 64 (i + 2 ^ 62 + (if swClaimed w then 2 ^ 63 else 0))⟩
  | none =>
    match t.candidates s b with
    | [] => ⟨[keyWrite allOnes, header seq], none, resNone⟩
    | i :: _ =>
      let old := if swValid (t.word s i 0) then t.word s i 3 else allOnes
      ⟨t.claim s key b i ++ [keyWrite old, header ((seq + 1) % 65536)], none, BitVec.ofNat 64 i⟩

/-- An error in the header or a granule of the bucket (R204). -/
def PrefixTable.bucketError (t : PrefixTable) (s : State) (b : Nat) : Option Cause :=
  (sbmError s (t.header b) 8).or (sbmError s (t.entry (4 * b)) 512)

/-! ### Under a hold -/

/-- PFXINS under the hold of the header, for the table and the key that were read at its start (R203, R206). -/
def pfxinsPlan (u : UnitWork) (s : State) : Except Cause UnitRest :=
  match tableOf u.desc, u.places with
  | some t, (kaddr, kpl) :: _ =>
    let b := t.bucket (recWord u.data 1)
    match t.bucketError s b with
    | some c => .error c
    | none => .ok (t.insert s u.data kaddr kpl b)
  | _, _ => .ok ⟨[], none, resBad⟩

/-- Fields of a KV descriptor (R345). -/
def kvLen (ws : List Word) : Nat := bits (recWord ws 0) 31 0
def kvRow (ws : List Word) : Nat := bits (recWord ws 2) 15 0
def kvPages (ws : List Word) : Nat := bits (recWord ws 2) 63 32

/-- The descriptor is refused (R346). -/
def kvRefused (ws : List Word) : Bool :=
  bits (recWord ws 0) 63 32 ≠ 0 || bits (recWord ws 2) 31 16 ≠ 0 || recWord ws 3 ≠ 0 || (recWord ws 1).toNat % 8 ≠ 0 ||
  kvRow ws % 64 ≠ 0 || kvRow ws < 64 || 4096 < kvRow ws

/-- A granule of a place as a unit reads it (05_work.md R85). -/
def unitGranule (s : State) (p : Partition) (pl : Place) : Nat :=
  (List.range 8).foldr (fun k acc => (unitWord s p pl k).toNat + 2 ^ 64 * acc) 0

/-- The position that a KVAPP expects. -/
def UnitWork.pos (u : UnitWork) : Nat := bits u.more 31 0

/-- Where KVAPP's row goes, once word 0 is held (R346): its address, the result that refuses the append, or the cause. -/
def kvappTarget (u : UnitWork) (s : State) : Except Cause (Except Word Word) :=
  match dataError s u.word u.addr 8 with
  | some c => .error c
  | none =>
    let p := u.pos
    if bits (s.wordAt u.word) 31 0 ≠ p then .ok (.error resNone)
    else if kvPages u.desc ≤ p / 16 then .ok (.error resFull)
    else
      let caddr := recWord u.desc 1 + BitVec.ofNat 64 (8 * (p / 16))
      match resolve s s.th.agent .unitRead 8 caddr with
      | .error c => .error c
      | .ok cpl =>
        match dataError s cpl caddr 8 with
        | some c => .error c
        | none =>
          let pg := unitWord s s.part cpl 0
          let at_ := pg + BitVec.ofNat 64 (kvRow u.desc * (p % 16))
          if pg = allOnes || (rangeCause s true (kvRow u.desc) at_).isSome then .ok (.error resFull) else .ok (.ok at_)

/-- KVAPP under the hold of word 0 (R346): the row is copied through the translations found at issue, granule by granule, and then LEN moves
on (kind 12 of R102). -/
def kvappPlan (u : UnitWork) (s : State) : Except Cause UnitRest :=
  match kvappTarget u s with
  | .error c => .error c
  | .ok (.error x) => .ok ⟨[], none, x⟩
  | .ok (.ok at_) =>
    let p : Word := BitVec.ofNat 64 u.pos
    .ok ⟨(List.range u.places.length).zip u.places |>.map (fun x => .row x.2.1 x.2.2 (at_ + BitVec.ofNat 64 (64 * x.1)))
          |>.append [.store u.addr u.word 12 [BitVec.ofNat 64 (u.pos + 1)]],
        if u.spec then some (0, p, u.addr) else none, p⟩

/-! ### Pins -/

/-- Steps 2 to 4 of PFXPIN on entry `i`, SEQ having been read (R208), with the record that a successful step of a speculating thread pushes
(R210). The second granule is read in step 3 only, and an error there leaves the table as it was (R204). -/
def PrefixTable.pin (t : PrefixTable) (u : UnitWork) (i seq : Nat) (s : State) : Except Cause UnitRest :=
  let w := t.word s i 0
  match sbmError s (t.entry i) 64 with
  | some c => .error c
  | none =>
    if !swValid w || swClaimed w || !(t.agrees s u.data i 1 2 && t.agrees s u.data i 4 4) then .ok ⟨[], none, resNone⟩
    else if swPin w = 65535 then .ok ⟨[], none, resFull⟩
    else
      match sbmError s (t.entry i + 64) 64 with
      | some c => .error c
      | none =>
        if !t.agrees s u.data i 8 4 then .ok ⟨[.step (t.entry i) (setBits w 15 0 seq) false], none, resNone⟩
        else
          .ok ⟨[.step (t.entry i) (swPinned w seq) false], if u.spec then some (1, BitVec.ofNat 64 i, s.absAddr u.addr) else none,
            BitVec.ofNat 64 (swPin w + 1)⟩

/-- The step of PFXUNPIN on entry `i` (R209, R210). -/
def PrefixTable.unpin (t : PrefixTable) (u : UnitWork) (i : Nat) (s : State) : Except Cause UnitRest :=
  let w := t.word s i 0
  match sbmError s (t.entry i) 64 with
  | some c => .error c
  | none =>
    if swValid w && swPin w ≠ 0 then
      .ok ⟨[.step (t.entry i) (setBits w 31 16 (swPin w - 1)) false],
        if u.spec then some (1, setBit (BitVec.ofNat 64 i) 63 true, s.absAddr u.addr) else none, BitVec.ofNat 64 (swPin w - 1)⟩
    else .ok ⟨[], none, resNone⟩

/-- PFXPIN and PFXUNPIN at the state word: the index is `arg`, and PFXPIN's SEQ the first of the places' addresses. -/
def pinPlan (u : UnitWork) (s : State) : Except Cause UnitRest :=
  match tableOf u.desc, u.places with
  | some t, (seq, _) :: _ => t.pin u u.arg.toNat seq.toNat s
  | some t, [] => t.unpin u u.arg.toNat s
  | none, _ => .ok ⟨[], none, resBad⟩

/-! ### A unit's writes -/

/-- What the instruction still has to do, or the cause that it meets: once it has decided nothing changes that (R206, R208, R346). -/
def UnitWork.plan (u : UnitWork) (s : State) : Except Cause UnitRest :=
  match u.rest with
  | some r => .ok r
  | none =>
    match u.instr with
    | .pfxins .. => pfxinsPlan u s
    | .kvapp .. => kvappPlan u s
    | _ => pinPlan u s

/-- The step waits behind another agent's hold of its word (03_addresses.md R49). -/
def UnitWrite.held (s : State) : UnitWrite → Bool
  | .step a _ _ => !s.unheld (sbmAt a)
  | _ => false

/-- The write waits: behind a hold, for an earlier one that does, or for a job's footprint (06_ordering.md R104). -/
def UnitWrite.waits (w : UnitWrite) (s : State) : Bool :=
  w.held s || s.writesWait s.th.tid ||
  match w with
  | .step a _ claim => s.stalled a (if claim then 64 else 8) true
  | .store a pl _ ws => s.stalled a (8 * ws.length) true || s.pathTaken s.th.cid pl.key
  | .row a _ dst => s.stalled a 64 false || s.stalled dst 64 true

/-- The write is made: an error of a granule read or a fault of a write ends the instruction (R346). -/
def UnitWrite.perform (s : State) : UnitWrite → Except Cause State
  | .step a x claim =>
    let s1 := s.storeAt (sbmPlace a) s.th.tid 0 8 x.toNat
    .ok (if claim then s1.changeBit (sbmPlace a) s.th.tid false else s1)
  | .store a pl kind ws => .ok (s.storeWords s.th.tid kind a pl ws)
  | .row a pl dst =>
    match dataError s pl a 64, resolve s s.th.agent .engineWrite 64 dst with
    | some c, _ => .error c
    | none, .error c => .error c
    | none, .ok tp => .ok (s.storeWords s.th.tid 12 dst tp (unitWords s s.part pl 8))

/-- The writes in order, up to the first that waits: what is left, and the state, or the cause that ends them. -/
def unitWrites : List UnitWrite → State → List UnitWrite × State × Option Cause
  | [], s => ([], s, none)
  | w :: ws, s =>
    if w.waits s then (w :: ws, s, none)
    else
      match w.perform s with
      | .error c => ([], s, some c)
      | .ok s1 => unitWrites ws s1

/-- The inverse-call record of a built-in operation (R210; 21 R346). -/
def State.pushInverse (s : State) : Option (Nat × Word × Word) → State
  | some (k, p0, p1) => s.pushRecord 0 1 k false false p0 p1
  | none => s

/-- The unit's next write goes to the memory of its word and waits there for its turn, when another agent holds that (03_addresses.md R49). -/
def State.takeTurn (s : State) : List UnitWrite → State
  | .step a x claim :: _ =>
    if (UnitWrite.step a x claim).held s && !s.turnTaken s.th.tid then s.enlist (storeWaiter s (sbmPlace a) a 8 .turn 0 0 none) else s
  | _ => s

/-- What an instruction of the unit comes to when it goes on. -/
inductive UnitRun where
  /-- It is done, with its result. -/
  | done (s : State) (x : Word)
  | failed (s : State) (c : Cause)
  | waits (s : State) (u : UnitWork)

/-- What the instruction reads as it decides: the bucket, the entry, or the page's number. -/
def UnitWork.loads (u : UnitWork) : Word × Nat :=
  match u.instr, tableOf u.desc with
  | .kvapp .., _ => (recWord u.desc 1 + BitVec.ofNat 64 (8 * (u.pos / 16)), 8)
  | .pfxins .., some t => (t.entry (4 * t.bucket (recWord u.data 1)), 512)
  | _, some t => (t.entry u.arg.toNat, 128)
  | _, none => (0, 0)
/-- Its decision waits for a job that writes there (06_ordering.md R104). -/
def UnitWork.loadsWait (u : UnitWork) (s : State) : Bool := u.rest.isNone && s.stalled u.loads.1 u.loads.2 false

/-- It goes on as far as it may. -/
def UnitWork.run (u : UnitWork) (s : State) : UnitRun :=
  if u.loadsWait s then .waits s u else
  match u.plan s with
  | .error c => .failed (s.endTurns s.th.tid) c
  | .ok r =>
    match unitWrites r.writes s with
    | (_, s1, some c) => .failed (s1.endTurns s.th.tid) c
    | (left, s1, none) =>
      let s2 := if left.length = r.writes.length && left ≠ [] then s1 else s1.endTurns s.th.tid
      if left = [] && !s2.writesWait s.th.tid then .done (s2.pushInverse r.push) r.answer
      else .waits (s2.takeTurn left) { u with rest := if left.length = r.writes.length && left ≠ [] then u.rest else some { r with writes := left } }

/-- It may go on: it meets a cause, its next write may be made, or is yet to go to its memory. -/
def UnitWork.goesOn (u : UnitWork) (s : State) : Bool :=
  !u.loadsWait s &&
  match u.plan s with
  | .error _ => true
  | .ok r =>
    match r.writes with
    | [] => !s.writesWait s.th.tid
    | w :: _ => !w.waits s || (w.held s && !s.turnTaken s.th.tid)

/-- The instruction takes the hold of its word (R206, R346). -/
def UnitWork.takesHold (u : UnitWork) : Bool :=
  match u.instr with
  | .pfxins .. | .kvapp .. => true
  | _ => false

/-- The current thread holds the word of byte `key`, or its reservation waits for the holder (R48). -/
def State.reserve (s : State) (pl : Place) (addr : Word) (d : Reg) : State :=
  let s1 := s.reserving pl.key addr
  if s.held.any (·.key = pl.key) then
    let enq (h : HeldWord) : HeldWord := { h with queue := h.queue ++ [⟨.thread s.th.tid, d, pl.enc⟩] }
    { s1 with held := updBy (fun h => decide (h.key = pl.key)) enq s1.held }
  else { s1 with held := s1.held ++ [⟨pl.key, .thread s.th.tid, s.cycle, false, []⟩] }

/-- What an instruction of the unit comes to at its start or when it is issued again. -/
inductive UnitStep where
  /-- It waits in issue, or parks, in a state. -/
  | parks (s : State)
  /-- It traps, leaving the state. -/
  | traps (s : State) (c : Cause)
  /-- It answers. -/
  | answers (s : State) (x : Word)
  /-- It gives way in a judgement: it ends without a result (16_boosted_tasks.md R265). -/
  | ends (s : State)
  /-- It waits under the hold of its word, or for it. -/
  | pends (s : State) (u : UnitWork)

/-- The effect of a unit's instruction: at once as far as its word is free and nothing makes it wait, and the rest later, a PFXINS or KVAPP under
the hold of its word (R199, R206, R346). -/
def UnitWork.start (d : Reg) (u : UnitWork) (s : State) : UnitStep :=
  if u.takesHold && s.held.any (·.key = u.word.key) then .pends (s.reserve u.word u.addr d) u
  else
    match u.run s with
    | .done s1 x => .answers s1 x
    | .failed s1 c => .traps s1 c
    | .waits s1 u1 => .pends (if u.takesHold then s1.reserve u.word u.addr d else s1) u1

/-- The step of an instruction that issues: it completes, or its result, an errand even into w0 (R364), is pending. -/
def UnitStep.effort (d la : Reg) : UnitStep → Effort
  | .parks s => .parked s
  | .traps s c => .trapIn s c
  | .answers s x => unitAnswer d la x s
  | .ends s => .done s.advance
  | .pends s u => .done (s.wait d la (.unit u)).advance

/-- A unit's start: its descriptor of `size` bytes at `a` read as one plain access (R199, R204). -/
def unitStart (err : State → List (Word × Place) → Option Cause) (size n : Nat) (a : Word) (s : State)
    (f : List Place → State → UnitStep) : UnitStep :=
  match s.reportAt a true with
  | some c => .traps s c
  | none =>
    match placesFrom s .unitRead size n a with
    | .error c => .traps s c
    | .ok ps =>
      if ps.any (fun p => s.accessWaits false p.2.key size || s.stalled p.1 size false) then .parks (s.parkOn .issue)
      else
        match err s ps with
        | some c => .traps s c
        | none => f (ps.map (·.2)) s

/-- The start of an instruction on a table: its descriptor is read and checked (R199, R204). -/
def tableStart (desc : Word) (s : State) (f : PrefixTable → List Word → State → UnitStep) : UnitStep :=
  if s.plainPending || s.recvPending then .parks (s.parkOn .issue)
  else
    unitStart (piecesError · 32) 32 1 desc s fun ps s =>
      let ws := pieceWords s 32 ps
      match tableOf ws with
      | none => .answers s resBad
      | some t =>
        match t.outside s.part with
        | some a => .traps s (causeOf 0x06 a)
        | none => f t ws s

/-- PFXINS from its start (R206). -/
def pfxinsStep (i : Instr) (d : Reg) (desc kaddr : Word) (s : State) : UnitStep :=
  tableStart desc s fun t ws s =>
    unitStart keyError 64 2 kaddr s fun ks s =>
      let key := pieceWords s 64 ks
      match resolve s s.th.agent .store 8 kaddr with
      | .error c => .traps s c
      | .ok kpl =>
        let b := t.bucket (recWord key 1)
        UnitWork.start d ⟨i, sbmPlace (t.header b), t.header b, kaddr, desc, ws, key, [(kaddr, kpl)], false, none⟩ s

/-- PFXINS (R206): pins the entry that holds the key's tag, or claims one. -/
def execPfxins (d a b l : Reg) (s : State) : Result :=
  let i : Instr := .pfxins d a b l
  issue i s (if s.th.holding.isSome then some (illegal i) else none) (wRegs [d, a, b]) fun s =>
    if s.th.st tSPEC || s.th.st tBOOST then afterPlain s (unitAnswer d l resSpec)
    else (pfxinsStep i d (s.rd a) (s.rd b) s).effort d l

/-! ### PFXPIN and PFXUNPIN -/

/-- The operation is judged and recorded: inside a frame or a task, and outside handlers and inverse routines (R210, R268). -/
def Thread.speculates (t : Thread) : Bool := (t.st tSPEC || t.st tBOOST) && t.pushes

/-- The judgement of a built-in operation of the unit of kind `k` on object `h`, when the thread speculates (R210, R346): `f` goes on with it.
DESIGN CHOICE (log entry 88): the entry that it records stays in the directory when the pin step is then refused or meets an error, as R210,
unlike R346 for KVAPP and 16 R264 for ABOP, does not say. -/
def judged (spec : Bool) (k : Nat) (h arg0 : Word) (s : State) (f : State → UnitStep) : UnitStep :=
  if !spec then f s
  else if s.th.rw.free = 0 then .parks (s.parkOn (.stack 1))
  else
    match s.judge k h arg0 with
    | .trapped s1 c => .traps s1 c
    | .givesWay s1 => .ends s1
    | .waits s1 ids => .parks (s1.parkOn (.conflict ids))
    | .clear s1 =>
      match s1.recordOp k h arg0 with
      | none => .answers s1 resSpec
      | some s2 => f s2

/-- PFXPIN and PFXUNPIN on entry `idx` once their table is known: the judgement of kind 1, and the step at the entry's state word. -/
def pinStep (i : Instr) (d : Reg) (t : PrefixTable) (desc idx kaddr : Word) (ws key : List Word) (seq : List (Word × Place)) (s : State) : UnitStep :=
  let e := t.entry idx.toNat
  let spec := s.th.speculates
  judged spec 1 e idx s (UnitWork.start d ⟨i, sbmPlace e, desc, idx, kaddr, ws, key, seq, spec, none⟩)

/-- PFXPIN from its start (R208). -/
def pfxpinStep (i : Instr) (d : Reg) (desc idx kaddr : Word) (s : State) : UnitStep :=
  tableStart desc s fun t ws s =>
    if 4 * 2 ^ t.logb ≤ idx.toNat then .answers s resNone
    else
      unitStart keyError 64 2 kaddr s fun ks s =>
        let h := t.header (idx.toNat / 4)
        if s.stalled h 8 false then .parks (s.parkOn .issue)
        else
          match (sbmError s h 8).or (sbmError s (t.entry idx.toNat) 64) with
          | some c => .traps s c
          | none => pinStep i d t desc idx kaddr ws (pieceWords s 64 ks) [(BitVec.ofNat 64 (t.seq s (idx.toNat / 4)), sbmPlace h)] s

/-- PFXPIN (R208, R210): pins the ready entry w[b] after checking its tag against the key at w[c]. -/
def execPfxpin (d a b c l : Reg) (s : State) : Result :=
  let i : Instr := .pfxpin d a b c l
  issue i s none (wRegs [d, a, b, c]) fun s => (pfxpinStep i d (s.rd a) (s.rd b) (s.rd c) s).effort d l

/-- PFXUNPIN from its start (R209). -/
def pfxunpinStep (i : Instr) (d : Reg) (desc idx : Word) (s : State) : UnitStep :=
  tableStart desc s fun t ws s =>
    if 4 * 2 ^ t.logb ≤ idx.toNat then .answers s resNone
    else
      match sbmError s (t.entry idx.toNat) 64 with
      | some c => .traps s c
      | none => pinStep i d t desc idx 0 ws [] [] s

/-- PFXUNPIN (R209, R210): takes one pin off entry w[b]. -/
def execPfxunpin (d a b l : Reg) (s : State) : Result :=
  let i : Instr := .pfxunpin d a b l
  issue i s none (wRegs [d, a, b]) fun s => (pfxunpinStep i d (s.rd a) (s.rd b) s).effort d l

/-! ### KVAPP -/

/-- KVAPP from its start, of the row at `row` at position `pos` to the cache of the descriptor `desc` (R346, R348). While it is pending
nothing else is pushed (R199), so that a free record stays reserved. -/
def kvappStep (i : Instr) (d : Reg) (desc row pos : Word) (s : State) : UnitStep :=
  if s.plainPending || s.recvPending then .parks (s.parkOn .issue)
  else
    unitStart (piecesError · 32) 32 1 desc s fun ps s =>
      let ws := pieceWords s 32 ps
      if kvRefused ws then .answers s resBad
      else
        match placesFrom s .unitRead 64 (kvRow ws / 64) row, resolve s s.th.agent .feBoth 8 desc with
        | .error c, _ => .traps s c
        | _, .error c => .traps s c
        | .ok rows, .ok hp =>
          let h := s.absAddr desc
          let spec := s.th.logs
          judged spec 0 h (BitVec.ofNat 64 (bits pos 31 0)) s
            (UnitWork.start d ⟨i, hp, h, row, pos, ws, [], rows, spec, none⟩)

/-- KVAPP (R346): appends the row at w[b] at position w[c] to the cache that w[a] describes. -/
def execKvapp (d a b c l : Reg) (s : State) : Result :=
  let i : Instr := .kvapp d a b c l
  issue i s (if s.th.holding.isSome then some (illegal i) else none) (wRegs [d, a, b, c]) fun s =>
    (kvappStep i d (s.rd a) (s.rd b) (s.rd c) s).effort d l

/-! ### A unit instruction that is granted its word -/

/-- The entry leaves the thread's pending results. -/
def Thread.dropPend (t : Thread) (p : Pending) : Thread := { t with pipe := { t.pipe with pend := t.pipe.pend.erase p } }

/-- The result of the entry `p` comes; into w0 it is lost (R364). -/
def Thread.unitDone (t : Thread) (p : Pending) (x : Word) : Thread :=
  if p.reg = 0 then t.dropPend p else t.arrive p.reg (x.setWidth 512)

/-- The entry `p` of a unit goes on with `u`. -/
def Thread.unitGoes (t : Thread) (p : Pending) (u : UnitWork) : Thread :=
  { t with pipe := { t.pipe with pend := t.pipe.pend.map fun q => if q = p then { q with st := .unit u } else q } }

/-- The thread before the unit's instruction `p`, which nothing has followed: it counts as not executed (R160; 08_encoding.md R138). -/
def Thread.unitUndone (t : Thread) (p : Pending) : Thread :=
  let x := t.dropPend p
  { x with pc := p.pc
           ident := { x.ident with icnt := x.ident.icnt - 1 }
           pipe := { x.pipe with pend := x.pipe.pend.map Pending.untick } }

/-- A cause that the unit finds after its instruction has issued: precise when nothing has issued since, and otherwise held as
a faulted access (R199; 10_traps.md R165). -/
def State.unitTrap (s : State) (p : Pending) (u : UnitWork) (c : Cause) : State :=
  let desc := match u.instr with
    | .pfxins .. => u.more
    | _ => u.addr
  if p.ran = 0 then (s.mapTh (·.unitUndone p)).takeTrap c
  else
    let h : HeldAccess := { heldFault u.instr desc u.arg p.left c p.seq with more := u.more }
    s.mapTh fun t => if p.reg = 0 then (t.dropPend p).hold h else t.faultLoad p.reg h

/-- The unit instruction `p` of the current thread goes on: its word is held for it, when it takes the hold, and nothing makes it wait. -/
def State.unitReady (s : State) (p : Pending) : Bool :=
  match p.st with
  | .unit u => (!u.takesHold || s.held.any (fun h => h.key = u.word.key && h.holder = .thread s.th.tid)) && u.goesOn s
  | _ => false

/-- The hold that the unit has taken ends. -/
def State.unitReleases (s : State) (u : UnitWork) : State := if u.takesHold then s.endHold u.word.key else s

/-- The current thread's unit instruction `p` goes on; when it is done its hold ends and its result is written. -/
def State.unitGranted (s : State) (p : Pending) : State :=
  match p.st with
  | .unit u =>
    match u.run s with
    | .done s1 v =>
      let (x, s2) := (s1.unitReleases u).incoming 12 v
      s2.mapTh (·.unitDone p x)
    | .failed s1 c => (s1.unitReleases u).unitTrap p u c
    | .waits s1 u1 => s1.mapTh (·.unitGoes p u1)
  | _ => s

/-! ### Inverses that ROLL applies in hardware -/

/-- The state word that a kind-1 record names: the descriptor at P1 is read to find its entry (R210); none where it names no table. -/
def State.pinAddr (s : State) (p0 p1 : Word) : Except Cause (Option Word) :=
  match placesFrom s .unitRead 32 1 p1 with
  | .error c => .error c
  | .ok ps =>
    match piecesError s 32 ps with
    | some c => .error c
    | none => .ok ((tableOf (pieceWords s 32 (ps.map (·.2)))).map fun t => t.entry (bits p0 20 0))

end Sys2Proof.Machine
end

