-- ==== Sys2Proof/Machine/Engines.lean ====
section
/-! DEFINITION. The engine group: CPY, CPYW and CPYRES (11_engines.md R178 to R187; 20 R326 to R328), GATH (R188 to R190), and the
steps of the job scheduler, the copy engine and the table walker (R103, R181, R189). -/
namespace Sys2Proof.Machine

/-! ### The job table (R179) -/

def Core.job (c : Core) (n : BitVec 4) : Option Job := c.jobs.find? (·.num == n)
def Core.putJob (c : Core) (j : Job) : Core := { c with jobs := updBy (·.num == j.num) (fun _ => j) c.jobs }

/-- The first number after the last one assigned that is not in use. -/
def Core.nextNumber (c : Core) : BitVec 4 :=
  (((List.range 16).map (fun k => c.rotation + BitVec.ofNat 4 k)).find? (fun n => (c.job n).isNone)).getD c.rotation

/-- The job retires: its number is free, and its result is kept (R179). -/
def Core.retire (c : Core) (j : Job) (status : Byte) : Core :=
  { c with jobs := c.jobs.filter (·.num != j.num), results := putBy (·.1 == j.num) (j.num, j.result status) c.results }

/-- What CPYW writes for the number, or none while the job is queued or runs (R184). -/
def Core.jobResult (c : Core) (n : BitVec 4) : Option Word :=
  match c.job n with
  | some j => if j.st = .faulted then some (j.result j.status) else none
  | none => some (((c.results.find? (·.1 == n)).map (·.2)).getD 0xFF)

/-- Threads of core `c` that wait at CPYW for job `n` receive its result. -/
def State.settleJob (s : State) (c : Cid) (n : BitVec 4) : State :=
  match (s.coreOf c).jobResult n with
  | some x => answerAll (fun y => y = .job n) x (s.coreThreads c) s
  | none => s

/-- The copy fault of job `n` is withdrawn from a thread (R185, R186). -/
def Thread.dropCopyFault (t : Thread) (n : BitVec 4) : Thread :=
  { t with pipe := { t.pipe with async := t.pipe.async.filter (fun c => !(c.code = 0x0B && c.detail = n.setWidth 8)) } }

/-- A job that is queued, running or faulted is cancelled (R186). -/
def State.cancelJob (s : State) (c : Cid) (n : BitVec 4) : State :=
  match (s.coreOf c).job n with
  | none => s
  | some j =>
    ((s.updCore c (·.retire j 0x01)).updThread j.owner (·.dropCopyFault n)).settleJob c n

/-! ### Footprints (R103, R104, R180, R190) -/

/-- A range with its length and whether it is written. -/
abbrev Foot := Nat × Nat × Bool

def Job.foot (j : Job) : List Foot :=
  (j.dst.toNat, j.bytes, true) :: (if j.gather then [] else [(j.src.toNat, j.bytes, false)])

/-- Bytes of an element and of a COLL's data (R191, R193). -/
def CollOp.op (q : CollOp) : Nat := bits q.word3 3 0
def CollOp.elem (q : CollOp) : Nat := if q.op = 0 || q.op = 3 then 4 else 8
def CollOp.len (q : CollOp) : Nat := bits q.word3 28 16 * q.elem
def CollOp.foot (q : CollOp) : List Foot := [(q.dst.toNat, q.len, true), (q.src.toNat, q.len, false)]

/-- Two footprints overlap as read-after-write, write-after-read or write-after-write. -/
def clash (a b : List Foot) : Bool := a.any (fun x => b.any (fun y => (x.2.2 || y.2.2) && overlaps x.1 x.2.1 y.1 y.2.1))

/-- An earlier job or COLL of the core, by its place in the order, still overlaps the footprint. -/
def Core.earlierClash (c : Core) (order : Nat) (f : List Foot) : Bool :=
  c.jobs.any (fun j => j.order < order && clash j.foot f) || c.cq.any (fun q => q.order < order && clash q.foot f)

/-! ### CPY and GATH -/

/-- The two-entry copy queue of the core is full (R178). -/
def Core.copyFull (c : Core) : Bool := 2 ≤ (c.jobs.filter (fun j => j.st = .queued)).length

/-- The job is accepted: numbered, logged when the thread logs (R246), and its number written into w[d] (R180). -/
def acceptJob (d la : Reg) (mk : BitVec 4 → Nat → Job) (s : State) : Effort :=
  if s.core.copyFull then .parked (s.parkOn (.engineQueue 1))
  else if s.th.logs && s.th.rw.free = 0 then .parked (s.parkOn (.stack 1))
  else
    let n := s.core.nextNumber
    let j := { mk n s.nextId with record := if s.th.logs then some s.th.rw.top else none }
    let s1 : State := { s.mapCore (fun c => { c with
      jobs := c.jobs ++ [j], rotation := n + 1, results := c.results.filter (·.1 != n) }) with nextId := s.nextId + 1 }
    let s2 := if s.th.logs then s1.pushRecord 0 4 0 false false (zx n) 0 else s1
    let s3 := if j.granules = 0 then s2.mapCore (·.retire j 0x00) else s2
    unitAnswer d la (zx n) s3

/-- A copy of `n` bytes is refused (R180). -/
def copyRefused (src dst n : Word) : Bool :=
  n.toNat % 64 ≠ 0 || 2 ^ 32 < n.toNat ||
  (addrSpace src = addrSpace dst && src < dst && dst.toNat < src.toNat + n.toNat)

/-- The effect of CPY (R180). -/
def cpyBody (c la : Reg) (dst src n : Word) (s : State) : Effort :=
  afterPlain s fun s =>
    match (rangeCause s true n.toNat dst).or (rangeCause s false n.toNat src) with
    | some x => .trap x
    | none =>
      let d := s.absAddr dst
      let a := s.absAddr src
      if copyRefused a d n then unitAnswer c la allOnes s
      else
        acceptJob c la (fun num order =>
          { num := num, owner := s.th.tid, src := a, dst := d, granules := n.toNat / 64, done := 0, skip := 0, gather := false,
            list := 0, chain := 0, nchain := 0, count := 0, pgran := 0, sources := none, st := .queued, status := 0, faultAt := 0,
            order := order, record := none }) s

/-- CPY (R180): queues a copy of w[b] bytes from w[a] to w[d]; w[c] receives the job number. -/
def execCpy (d a b c l : Reg) (s : State) : Result :=
  issue (.cpy d a b c l) s none (wRegs [d, a, b, c]) fun s => cpyBody c l (s.rd d) (s.rd a) (s.rd b) s

/-- CPYW (R184): waits for job w[a] and returns its result; into w0 it does not wait (R328). -/
def execCpyw (d a l : Reg) (s : State) : Result :=
  issue (.cpyw d a l) s none (wRegs [d, a]) fun s =>
    let j := s.rd a
    if d = 0 then .done s.advance
    else if 15 < j then unitAnswer d l 0xFE s
    else
      match s.core.jobResult (j.extractLsb' 0 4) with
      | some x => unitAnswer d l x s
      | none => .done (s.wait d l (.job (j.extractLsb' 0 4))).advance

/-- CPYRES (R185): a faulted job runs again from its granule; w[d] := 0, or 1 where there is none. -/
def execCpyres (d a : Reg) (s : State) : Result :=
  issue (.cpyres d a) s none (wRegs [d, a]) fun s =>
    let n := s.rd a
    match (if n ≤ 15 then s.core.job (n.extractLsb' 0 4) else none).filter (fun j => j.st = .faulted) with
    | none => answer d 1 s
    | some j => answer d 0 ((s.mapCore (·.putJob { j with st := .running })).updThread j.owner (·.dropCopyFault j.num))

/-- Fields of a gather descriptor (R188). -/
def gathCount (ws : List Word) : Nat := bits (recWord ws 3) 20 16
def gathPgran (ws : List Word) : Nat := bits (recWord ws 3) 15 0

/-- The descriptor is refused (R188). -/
def gathRefused (ws : List Word) : Bool :=
  gathCount ws = 0 || 16 < gathCount ws || gathPgran ws = 0 || (recWord ws 0).toNat % 64 ≠ 0 || (recWord ws 1).toNat % 8 ≠ 0
  || (recWord ws 2).toNat % 4 ≠ 0 || bits (recWord ws 3) 31 21 ≠ 0

/-- GATH (R188): queues the page gather of the descriptor at w[a]. -/
def execGath (d a l : Reg) (s : State) : Result :=
  issue (.gath d a l) s none (wRegs [d, a]) fun s =>
    afterPlain s (unitAccess 32 1 (s.rd a) · fun ps s =>
      let ws := pieceWords s 32 ps
      if gathRefused ws then unitAnswer d l allOnes s
      else
        match rangeCause s true (64 * (gathCount ws * gathPgran ws)) (recWord ws 0) with
        | some c => .trap c
        | none =>
          acceptJob d l (fun num order =>
            { num := num, owner := s.th.tid, src := 0, dst := s.absAddr (recWord ws 0), granules := gathCount ws * gathPgran ws,
              done := 0, skip := 0, gather := true, list := s.absAddr (recWord ws 2), chain := s.absAddr (recWord ws 1),
              nchain := bits (recWord ws 3) 63 32, count := gathCount ws, pgran := gathPgran ws, sources := none,
              st := .queued, status := 0, faultAt := 0, order := order, record := none }) s)

/-! ### Running a job -/

/-- The job may start (R103, R179, R189). -/
def Core.mayStart (c : Core) (j : Job) : Bool :=
  j.st = .queued && (c.jobs.filter (fun k => k.st != .queued)).length < 4 && !c.earlierClash j.order j.foot &&
  !(j.gather && (c.jobs.any (fun k => k.order < j.order) || c.cq.any (fun q => q.order < j.order)))

/-- COPY_JOB_START (R103): job `j` of core `c` starts. -/
def execCopyJobStart (c : Cid) (j : BitVec 4) (s : State) : Result :=
  .next (match (s.coreOf c).job j with
    | some x => if (s.coreOf c).mayStart x then s.updCore c (·.putJob { x with st := .running }) else s
    | none => s)

/-- The thread is past its BAR, whose result is all ones (R187, R322). -/
def Thread.abandonBar (t : Thread) (d la : Reg) : Thread :=
  let t1 := (t.tick.result (wReg d) la t.pc (allOnes.setWidth 512)).step4.counted
  { t1 with pipe := { t1.pipe with park := none } }

/-- A BAR at which the thread waits for its jobs is abandoned without an arrival (R187). A gang that waits there is disbanded, as it is when
the member takes the copy fault (04_threads.md R62), and the others execute the BAR again. -/
def State.abandonBar (s : State) (tid : Tid) : State :=
  let x := s.thread tid
  match (s.members x).findSome? (fun t => match t.pipe.park with
    | some (.bar d la) => some (d, la)
    | _ => none) with
  | none => s
  | some (d, la) => (s.asThread tid (·.breakGang true)).updThread tid (·.abandonBar d la)

/-- The job stops at its granule (R183): it is FAULTED, its thread has a copy fault pending, CPYW answers, and a BAR is abandoned. -/
def State.jobFault (s : State) (c : Cid) (j : Job) (status : Byte) (addr : Word) : State :=
  (((s.updCore c (·.putJob { j with st := .faulted, status := status, faultAt := addr })).postCause j.owner
    ⟨0x0B, j.num.setWidth 8, addr⟩).settleJob c j.num).abandonBar j.owner

/-- The status of a cause met by an engine: a walk error is 0x06 (R184, R398). -/
def engineStatus (x : Cause) (other : Byte) : Byte := if x.code = 0x0A && x.detail = 1 then 0x06 else other

/-- The job moves on to granule `n`, and retires as DONE past its last (R184). -/
def State.jobAt (s : State) (c : Cid) (j : Job) (n : Nat) : State :=
  let k := { j with done := n }
  if n < j.granules then s.updCore c (·.putJob k) else (s.updCore c (·.retire k 0x00)).settleJob c j.num

/-- One granule read at `src` and written at `dst` (R181, R183); it waits behind a hold on a word of the destination
(03_addresses.md R49), and for traffic on the same paths (02_module.md R26). -/
def State.copyOne (s : State) (c : Cid) (j : Job) (src dst : Word) : State :=
  let ag := (s.thread j.owner).agent
  match resolve s ag .engineRead 64 src with
  | .error x => s.jobFault c j (engineStatus x 0x02) src
  | .ok sp =>
    match dataError s sp src 64 with
    | some _ => s.jobFault c j 0x04 src
    | none =>
      match resolve s ag .engineWrite 64 dst with
      | .error x => s.jobFault c j (engineStatus x 0x03) dst
      | .ok dp =>
        if (s.heldByOther (some j.owner) dp.key 64).isSome || s.pathTaken c sp.key || s.pathTaken c dp.key then s
        else (s.storeAt dp j.owner 7 64 (unitGranule s (s.partOf ag.part) sp)).jobAt c j (j.done + 1)

/-- The next step of a running job. -/
def State.jobStep (s : State) (c : Cid) (j : Job) : State :=
  let dst := j.dst + BitVec.ofNat 64 (64 * j.done)
  if !j.gather then s.copyOne c j (j.src + BitVec.ofNat 64 (64 * j.done)) dst
  else
    match j.sources with
    | none => s
    | some srcs =>
      let i := j.done / j.pgran
      match (srcs[i]?).join with
      | none => s.jobAt c j ((i + 1) * j.pgran)
      | some a => s.copyOne c j (a + BitVec.ofNat 64 (64 * (j.done % j.pgran))) dst

/-- COPY_GRANULE (R181): running job `j` of core `c` copies its next granule. -/
def execCopyGranule (c : Cid) (j : BitVec 4) (s : State) : Result :=
  .next (match (s.coreOf c).job j with
    | some x => if x.st = .running then (s.updCore c fun y => { y with copyTurn := j }).jobStep c x else s
    | none => s)

/-- A number of `n` bytes at `a` as the walker reads it for agent `ag`, or its failure (R189). -/
def walkRead (s : State) (ag : Agent) (n : Nat) (a : Word) : Except Cause Nat :=
  match resolve s ag .engineRead n a with
  | .error c => .error c
  | .ok pl =>
    match dataError s pl a n with
    | some c => .error c
    | none => .ok (if specialAt (s.partOf ag.part) pl.space pl.off then 0 else s.bytesAt pl n)

/-- The source of list entry `i`: none for a skipped entry (R189), or the address and the cause of a fault. -/
def gathSource (s : State) (ag : Agent) (j : Job) (i : Nat) : Except (Word × Cause) (Option Word) :=
  let la := j.list + BitVec.ofNat 64 (4 * i)
  match walkRead s ag 4 la with
  | .error c => .error (la, c)
  | .ok n =>
    if j.nchain ≤ n then .ok none
    else
      let ca := j.chain + BitVec.ofNat 64 (8 * n)
      match walkRead s ag 8 ca with
      | .error c => .error (ca, c)
      | .ok x =>
        let a : Word := BitVec.ofNat 64 x
        let s1 := s.focus j.owner
        if a = allOnes || (rangeCause s1 false (64 * j.pgran) a).isSome then .ok none else .ok (some (absolute s1.part ag a))

/-- The sources of the entries from `i` on, `n` of them. -/
def gathSources (s : State) (ag : Agent) (j : Job) : Nat → Nat → Except (Word × Cause) (List (Option Word))
  | 0, _ => .ok []
  | n + 1, i =>
    match gathSource s ag j i, gathSources s ag j n (i + 1) with
    | .error x, _ => .error x
    | _, .error x => .error x
    | .ok a, .ok as => .ok (a :: as)

/-- The SKIP bits of some sources. -/
def skipBits : List (Option Word) → Nat
  | [] => 0
  | a :: as => (if a.isNone then 1 else 0) + 2 * skipBits as

/-- GATH_WALK (R189): the walk of running gather job `j` of core `c`. -/
def execGathWalk (c : Cid) (j : BitVec 4) (s : State) : Result :=
  .next (match (s.coreOf c).job j with
    | some x =>
      if x.st = .running && x.gather && x.sources.isNone then
        match gathSources s (s.thread x.owner).agent x x.count 0 with
        | .error (a, e) => s.jobFault c x (engineStatus e 0x05) a
        | .ok srcs => s.updCore c (·.putJob { x with sources := some srcs, skip := BitVec.ofNat 16 (skipBits srcs) })
      else s
    | none => s)

end Sys2Proof.Machine
end

