-- ==== Sys2Proof/Machine/Rollback.lean ====
section
/-! DEFINITION. ROLL (15_time_axes.md R247; 22 R368): the pass over the rewind stack, the undoing of each record (R245), and what a
restored checkpoint brings back (R155, R249, R261), and the vectoring of a rollback event between issues (R243). -/
namespace Sys2Proof.Machine

/-- What undoing one record comes to. -/
inductive Undone where
  /-- The record is undone. -/
  | ok (s : State)
  /-- It waits in issue: for the retry buffer, or behind a job's footprint (06_ordering.md R104), or for traffic on its path (02_module.md R26). -/
  | waits
  /-- Its step on a word waits at the memory, behind a hold (03_addresses.md R49). -/
  | queued (s : State)
  /-- It traps. -/
  | trap (c : Cause)
  /-- It calls an inverse routine (kinds 8 to 63). -/
  | call

/-- A step of ROLL on the word at `a` (R245): `what` and `fe` as `WaitOp.undo` takes them. -/
def undoWord (s : State) (ac : Access) (a : Word) (what : BitVec 2) (fe : Option Bool) (data : Word) : Undone :=
  match resolve s s.th.agent ac 8 a with
  | .error c => .trap c
  | .ok pl =>
    if s.stalled a 8 true || s.pathTaken s.th.cid pl.key then .waits
    else if !s.unheld pl.key then
      .queued ((s.enlist (storeWaiter s pl a 8 (.undo what fe) (data.setWidth 512) 0 none)).parkOn (.full pl.key))
    else
      match (if what = 0 then none else dataError s pl a 8) with
      | some c => .trap c
      | none =>
        let s1 := s.undoAt s.th.tid pl what fe data
        .ok (if s1.isFull pl.key = s.isFull pl.key then s1 else s1.waitListPass pl.key)

/-- RK 0: the old word and, where the record holds it, the old bit (R245). -/
def undoStore (s : State) (w1 p0 : Word) : Undone :=
  let fev := bit w1 49
  undoWord s (if fev then .feWrite else .store) (recordAddr w1) 0 (if fev then some (bit w1 48) else none) p0

/-- RK 1: the built-in inverses, or a call (R245; 21 R347; 12_prefix_index.md R210; 16_boosted_tasks.md R259). -/
def undoInverse (s : State) (opk : Nat) (p0 p1 : Word) : Undone :=
  match opk with
  | 0 => undoWord s .feBoth p1 2 none p0
  | 1 =>
    match s.pinAddr p0 p1 with
    | .error c => .trap c
    | .ok none => .ok s
    | .ok (some a) => undoWord s .store a 3 none p0
  | 2 => undoWord s .store p1 1 none p0
  | n => if n < 8 then .ok s else .call

/-- RK 2: the anti-message of a sent message (R245, R249). -/
def undoSend (s : State) (w1 p0 p1 : Word) : Undone :=
  let h := recordAddr w1
  match resolveHandle s.part s.th.agent h with
  | .error _ => .ok s
  | .ok (y, x, slot) =>
    if s.bufferFull s.th.cid then .waits
    else .ok (s.launchMessage (s.destTid y x slot) (mkHandle y x slot) p1 (p0.setWidth 32) [] true)

/-- RK 4: the job is cancelled if it is still the one whose record lies at `off` (R245, 11_engines.md R186). -/
def undoCopy (s : State) (off : Nat) (p0 : Word) : State :=
  match s.core.job (p0.extractLsb' 0 4) with
  | some j => if j.owner = s.th.tid && j.record = some off then s.cancelJob s.th.cid j.num else s
  | none => s

/-- The record at `off` undone (R245). -/
def undoRecord (s : State) (off : Nat) (r : Word × Word × Word × Word) : Undone :=
  let (_, w1, p0, p1) := r
  match recordKind w1 with
  | 0 => undoStore s w1 p0
  | 1 => undoInverse s (recordOpk w1) p0 p1
  | 2 => undoSend s w1 p0 p1
  | 3 => .ok (s.mapCore (·.cancelEffect s.th.tid p0 p1))
  | 4 => .ok (undoCopy s off p0)
  | _ => .ok s

/-- The header of the newest checkpoint, when its five records are the top of the stack (R247). -/
def Thread.topCheckpoint (t : Thread) : Option Nat :=
  match t.rw.newest with
  | some h => if 5 ≤ t.rw.count && h = t.rw.down t.rw.top 1 then some h else none
  | none => none

/-- The PUSHNO of the checkpoint with header `h`: that of its header's push (16_boosted_tasks.md R261; log entry 21). -/
def Thread.pushnoAt (t : Thread) (h : Nat) : Half := ((t.rw.marks.find? (·.1 == h)).map (·.2)).getD t.ax.pushno

/-- The header before the one at `h`, by its P1 (R245). -/
def Thread.headerBefore (t : Thread) (h : Nat) (p1 : Word) : Option Nat :=
  let q := offReg p1
  if p1 = allOnes || t.rw.index h ≤ t.rw.index q then none else some q

/-- The registers that the checkpoint with header `h` holds (R245). -/
def State.savedRegs (s : State) (t : Thread) (h : Nat) : Vector Word 16 :=
  Vector.ofFn fun (i : Fin 16) =>
    if i.val = 0 then 0 else s.mem.word (s.ownKey t (t.rw.down h (4 - i.val / 4)) + 8 * (i.val % 4))

/-- The messages of the thread's ring in DELIV or DONE at VT `u` or above become UNPROC (R247). -/
def reopen (u : Word) : List (Nat × Word × Word) → State → State
  | [], s => s
  | m :: ms, s =>
    if (hdrState m.2.2 = 1 || hdrState m.2.2 = 2) && u ≤ m.2.1 then reopen u ms (s.setSlot s.th m.1 0) else reopen u ms s

/-- Anti-messages held at the thread's ring meet their positives again (R249). -/
def annihilateAll : Nat → State → State
  | 0, s => s
  | n + 1, s =>
    let s1 := annihilateAll n s
    match s1.messages[n]? with
    | some m => if m.destHandle == s1.th.handle && m.part == s1.th.part then s1.annihilate n m else s1
    | none => s1

/-- The accumulators cleared and MXERR.RB set (R155). -/
def Matrix.rolledBack (m : Matrix) : Matrix := { m with acc := Vector.replicate 4 0, mxerr := setBit m.mxerr 2 true }

/-- The directory entries of the thread that `p` picks leave (16_boosted_tasks.md R261). -/
def State.dropOwn (s : State) (p : DirEntry → Bool) : State :=
  s.dropEntries (fun e => e.part == s.th.part && e.owner == s.th.handle && p e)

/-- No ROLL is in progress any more. -/
def Thread.rollDone (t : Thread) : Thread := { t with rw := { t.rw with event := none, vectored := none, target := none } }

/-- TSTAT's IE, ROAM, SPEC and BOOST from a checkpoint's (R247). -/
def restoreStatus (old c : Word) : Word :=
  setBit (setBit (setBit (setBit old tIE (bit c tIE)) tROAM (bit c tROAM)) tSPEC (bit c tSPEC)) tBOOST (bit c tBOOST)

/-- The checkpoint with header `h` and record `r` restored under target `t` (R247). -/
def State.restore (s : State) (h : Nat) (r : Word × Word × Word × Word) (t : Word) : State :=
  let (vt, w1, p0, _) := r
  let u := if t = allOnes then vt + 1 else t
  let regs := s.savedRegs s.th h
  let s1 := s.mapTh fun x => { x.rollDone.counted with
    w := regs
    pc := recordAddr w1 &&& ~~~ 3
    tstat := restoreStatus x.tstat p0
    ax := { x.ax with lvt := vt } }
  let s2 := reopen u (s1.slots s1.th) s1
  let s3 := annihilateAll s2.messages.length s2
  let s4 := (s3.mapCore fun c => { c with mx := c.mx.rolledBack }).dropOwn (fun e => 0 < (e.pushno - s3.th.pushnoAt h).toInt)
  s4.recomputeFor s4.th

/-- The call of an inverse routine (R247): the record is popped, and ROLL stays in progress. -/
def State.callInverse (s : State) (r : Word × Word × Word × Word) : State :=
  let (vt, w1, p0, p1) := r
  s.mapTh fun t =>
    { ((((((t.popRecords 1).wr 1 p0).wr 2 p1).wr 3 (BitVec.ofNat 64 (recordOpk w1))).wr 4 vt).wr 15 t.pc).setSt tUNW true with
      pc := recordAddr w1 &&& ~~~ 3 }.counted

/-- The pass from the top of the stack (R247), with `fuel` records at most. -/
def rollPass (target : Word) : Nat → State → Effort
  | 0, s => .parked (s.parkOn .issue)
  | fuel + 1, s =>
    let t := s.th
    if t.rw.count = 0 then
      let s1 := (s.mapTh Thread.rollDone).dropOwn (fun _ => true)
      .done (s1.recomputeFor s1.th).advance
    else
      let off := t.rw.down t.rw.top 1
      let r := s.recordAt t off
      match t.topCheckpoint with
      | some h =>
        if r.1 < target || target = allOnes then
          match s.core.mx.run with
          | some m => if 0 < m.step then .parked (s.parkOn .issue) else .done (s.restore h r target)
          | none => .done (s.restore h r target)
        else
          rollPass target fuel (s.mapTh fun t =>
            { t.popRecords 5 with rw := { (t.popRecords 5).rw with newest := t.headerBefore h r.2.2.2 } })
      | none =>
        match undoRecord s off r with
        | .ok s1 => rollPass target fuel (s1.mapTh (·.popRecords 1))
        | .waits => .parked (s.parkOn .issue)
        | .queued s1 => .parked s1
        | .trap c => .trapIn s c
        | .call => .done (s.callInverse r)

/-- The target of a ROLL: the saved one, or w[a], lowered by a pending event (R247). -/
def Thread.rollStart (t : Thread) (v : Word) : Word :=
  let x := t.rw.target.getD v
  match t.rw.event with
  | some e => if e < x then e else x
  | none => x

/-- The effect of ROLL (R247, R368). -/
def rollBody (v : Word) (s : State) : Effort :=
  match s.th.faultCause with
  | some c => .trap c
  | none =>
    if s.plainPending || s.relaxedOut ≠ 0 || s.recvPending then .parked (s.parkOn .issue)
    else
      let target := s.th.rollStart v
      let s1 := s.mapTh fun t =>
        { t.writeBack.setSt tUNW false with rw := { t.rw with target := some target, event := none } }
      rollPass target (s1.th.rw.count + 1) s1

/-- ROLL (R247): undoes records down to a checkpoint below w[a]; illegal in a handler and in a gang (R368). -/
def execRoll (a : Reg) (s : State) : Result :=
  let i : Instr := .roll a
  issue i s (if s.th.st tSP || s.th.gang.isSome then some (illegal i) else none) (wRegs [a]) (rollBody (s.rd a))

/-- A pending event of a thread is taken between issues, or dropped when its target exceeds LVT (R242, R243). -/
def State.takeEvent (s : State) : State :=
  match s.th.eventDue with
  | none => s
  | some v =>
    if s.th.ax.lvt < v then
      let s1 := s.mapTh fun t => { t with rw := { t.rw with event := none } }
      s1.recomputeFor s1.th
    else s.vectorEvent v

/-- ROLLBACK_EVENT_VECTOR (R243): thread `t` takes its pending event. -/
def execRollbackEventVector (t : Tid) (s : State) : Result :=
  .next (if (s.thread t).active then ((s.keepStarved t).focus t).takeEvent else s)

end Sys2Proof.Machine
end

