-- ==== Sys2Proof/Machine/Matrix.lean ====
section
/-! DEFINITION. The matrix unit (09_matrix_vector.md R142 to R154; 07_numbers.md R118 to R121; 21 R354, R356, R360 to R363;
22 R370): the queue of a core, the configuration, the operand rings, the steps of an MMA and the transfer of accumulators. -/
namespace Sys2Proof.Machine

/-! ### Formats -/

/-- The element type of an operand format code (R106). -/
def operandElem (f : BitVec 4) : Elem :=
  match f.toNat with
  | 0 => .ieee fF64
  | 1 => .ieee fF32
  | 2 => .ieee fF16
  | 3 => .ieee fBF16
  | 4 => .narrow nF8A
  | 5 => .narrow nF8B
  | 6 => .narrow nF6A
  | 7 => .narrow nF6B
  | 8 => .narrow nF4
  | 9 => .log 5 4
  | 10 => .log 3 1
  | 11 => .int true 16
  | 12 => .int true 8
  | 13 => .int false 8
  | 14 => .int true 4
  | _ => .int false 4

/-- K per step of the format's class, which names the class (R143). -/
def classK (f : BitVec 4) : Nat :=
  match f.toNat with
  | 0 => 16
  | 1 => 32
  | 2 | 3 | 11 => 64
  | 4 | 5 | 6 | 7 | 12 | 13 => 128
  | _ => 256

/-- The format is a log format. -/
def isLog (f : BitVec 4) : Bool := f = 9 || f = 10

/-- Rows of an A tile and columns of a B tile (R142, R146). -/
def tileRows (f : BitVec 4) : Nat := if f = 0 then 16 else 32

/-! ### MCFG and MRING -/

/-- The configuration that a word names, or none where MCFG refuses it (R143). -/
def mcfgOf (x : Word) : Option MxConfig :=
  let fa : BitVec 4 := x.extractLsb' 0 4
  let fb : BitVec 4 := x.extractLsb' 4 4
  if bits x 63 13 ≠ 0 || bits x 11 10 ≠ 0 || classK fa ≠ classK fb || isLog fa != isLog fb
      || ((bit x 8 || bit x 9) && fa.toNat < 2) then none
  else some { fa := fa, fb := fb, sca := bit x 8, scb := bit x 9, dside := bit x 12 }

/-- The ring that a descriptor names, or none where MRING refuses it (R145). -/
def mringOf (x : Word) : Option MxRing :=
  let r : MxRing := { qc := x.extractLsb' 56 2, nslot := bits x 55 40, tile := bits x 39 32, base := bits x 20 6 * 64, head := 0, tail := 0 }
  if bits x 60 58 ≠ 0 || bits x 31 21 ≠ 0 || bits x 5 0 ≠ 0 || (r.nslot ≠ 0 && r.tile = 0)
      || localBytes < r.base + 64 * r.nslot * r.tile then none
  else some r

/-- Ring `n` of a context. -/
def Matrix.ring (m : Matrix) (n : BitVec 3) : MxRing := m.rings[n.toNat]'n.isLt
def Matrix.setRing (m : Matrix) (n : BitVec 3) (r : MxRing) : Matrix := { m with rings := m.rings.set n.toNat r n.isLt }
/-- Accumulator `k`. -/
def Matrix.accum (m : Matrix) (k : BitVec 2) : BitVec 32768 := m.acc[k.toNat]'k.isLt
def Matrix.setAccum (m : Matrix) (k : BitVec 2) (x : BitVec 32768) : Matrix := { m with acc := m.acc.set k.toNat x k.isLt }

/-- A tile is pushed and not yet popped (R147). -/
def MxRing.pushed (r : MxRing) : Bool := r.head < r.tail
def MxRing.pop (r : MxRing) : MxRing := { r with head := r.head + 1 }

/-! ### Tiles -/

/-- A tile in a slot: its format, where it starts in the memories of partition `part`, K, the rows or columns, and its block size when it is
scaled (R146). -/
structure Tile where
  elem : Elem
  part : Partition
  pl : Place
  k : Nat
  rows : Nat
  block : Option Nat

/-- Bytes of the elements, and of the scales. -/
def Tile.elemBytes (t : Tile) : Nat := t.rows * t.k * t.elem.bits / 8
def Tile.scaleBytes (t : Tile) : Nat :=
  match t.block with
  | none => 0
  | some b => t.rows * (t.k / b)

/-- The block size of a bka or bkb code (R360). -/
def blockOf (c : BitVec 2) : Nat := 16 * 2 ^ c.toNat

/-- The core of the quad that the ring stands in (R145). -/
def quadCore (c : Cid) (qc : BitVec 2) : Cid :=
  mkCid ((cidPY c).extractLsb' 1 6 ++ qc.extractLsb' 1 1) ((cidPX c).extractLsb' 1 5 ++ qc.extractLsb' 0 1)

/-- Byte `off` of the memory of core `c` as partition `p` maps it: that of a core which runs nothing is its shadow slice (02_module.md
R19; 10_traps.md R177). -/
def Partition.memoryAt (p : Partition) (c : Cid) (off : Nat) : Place :=
  (if p.map.any (·.2 = .shadow c) then MapTarget.shadow c else .core c).place off

/-- The tile of format `f` at the head of ring `r` of core `c`. -/
def headTile (s : State) (c : Cid) (r : MxRing) (f : BitVec 4) (scaled : Bool) (bk : BitVec 2) : Tile :=
  let p := s.partOf ((s.coreOf c).owner.getD 0)
  { elem := operandElem f
    part := p
    pl := p.memoryAt (quadCore c r.qc) (r.base + 64 * r.tile * (r.head % r.nslot))
    k := classK f
    rows := tileRows f
    block := if scaled then some (blockOf bk) else none }

/-- The bit at which element (row, k) starts, and the bytes that hold it (R109, R146). -/
def Tile.bitAt (t : Tile) (row k : Nat) : Nat := (row * t.k + k) * t.elem.bits
def Tile.byteSpan (t : Tile) (row k : Nat) : Nat := (t.bitAt row k % 8 + t.elem.bits + 7) / 8

/-- The element has an uncorrectable error (R153). -/
def Tile.badElem (s : State) (t : Tile) (row k : Nat) : Bool :=
  (s.poisonIn (t.pl.key + t.bitAt row k / 8) (t.byteSpan row k)).isSome

/-- The `n` bytes at `o` bytes from the tile's start; a byte of a special word reads as 0 (05_work.md R85). -/
def Tile.bytes (s : State) (t : Tile) (o n : Nat) : Nat :=
  (List.range n).foldr (fun i acc =>
    (if specialAt t.part t.pl.space (t.pl.off + o + i) then 0 else (s.mem.read (t.pl.key + o + i)).toNat) + 256 * acc) 0

/-- The place within the tile of the scale of block `j` of a row (R146), and an error there. -/
def Tile.scaleAt (t : Tile) (b row j : Nat) : Nat := t.elemBytes + row * (t.k / b) + j
def Tile.badScale (s : State) (t : Tile) (row k : Nat) : Bool :=
  match t.block with
  | none => false
  | some b => (s.poisonIn (t.pl.key + t.scaleAt b row (k / b)) 1).isSome

/-- The element's code; zero in place of one in error (R153). -/
def Tile.code (s : State) (t : Tile) (row k : Nat) : Nat :=
  if t.badElem s row k || t.badScale s row k then 0
  else t.bytes s (t.bitAt row k / 8) (t.byteSpan row k) / 2 ^ (t.bitAt row k % 8) % 2 ^ t.elem.bits

/-- The exponent of the element's scale (R110), none for NaR. -/
def Tile.scale (s : State) (t : Tile) (row k : Nat) : Option Int :=
  match t.block with
  | none => some 0
  | some b =>
    let c := t.bytes s (t.scaleAt b row (k / b)) 1
    if t.badScale s row k then some 0 else if c = 255 then none else some (c - 127)

/-! ### Products and sums -/

/-- The product of two log elements (R119). -/
def logProduct (qa : Nat) (ba : Int) (qb : Nat) (bb : Int) (x y : Nat) : FVal :=
  let fa := x % 2 ^ qa
  let fb := y % 2 ^ qb
  let neg := bit (BitVec.ofNat 8 x) qa != bit (BitVec.ofNat 8 y) qb
  if lnsValue qa ba x = .nan || lnsValue qb bb y = .nan then .nan
  else if fa = 0 || fb = 0 then .fin false 0 0
  else .fin neg (ltMan ((fa + fb) % 4)) (((fa + fb) / 4 : Nat) - ba - bb - 23)

/-- The exact product of two elements (R118, R119). DESIGN CHOICE (log entry 73): an integer or narrow zero counts as +0, so that its product
with a negative element is -0, and the product of a log zero is +0; the spec does not say which sign a zero product has where a format has no
-0. -/
def elemProduct (ka kb : Elem) (x y : Nat) : FVal :=
  match ka, kb with
  | .log qa ba, .log qb bb => logProduct qa ba qb bb x y
  | _, _ => (ka.value x).mul (kb.value y)

/-- The product under the scales of its two elements. -/
def scaledProduct (p : FVal) (a b : Option Int) : FVal :=
  match a, b with
  | some x, some y => p.scaleDown (-(x + y))
  | _, _ => .nan

/-- The exact sum of some products; a zero sum is +0 unless every product is -0 (R120). -/
def exactSum : List FVal → FVal
  | [] => .fin false 0 0
  | x :: xs => xs.foldl (FVal.add rneMode) x

/-- Set map bits among the channels of step `st` up to the one at index `i`, of those below 1,024 (R151). -/
def splitBelow (map : BitVec 1024) (first i : Nat) : Nat :=
  ((List.range (i + 1)).filter (fun j => first + j < 1024 && bit map (first + j))).length

/-- src(k) within the step that starts at channel `first` (R151). -/
def sourceIndex (map : BitVec 1024) (first i : Nat) : Nat := if first + i < 1024 then i - splitBelow map first i else i

/-- The index at which each operand fetches its element for index `i` of a step: A's and B's (R151). -/
def fetchIndex (m : MmaRun) (k i : Nat) : Nat × Nat :=
  if m.dup then
    let j := sourceIndex m.map (m.step * k) i
    if m.cfg.dside then (j, i) else (i, j)
  else (i, i)

/-- The scaled product at index `i` of the step for output (row, col). -/
def productAt (s : State) (m : MmaRun) (ta tb : Tile) (row col i : Nat) : FVal :=
  let (ia, ib) := fetchIndex m ta.k i
  scaledProduct (elemProduct ta.elem tb.elem (ta.code s row ia) (tb.code s col ib)) (ta.scale s row ia) (tb.scale s col ib)

/-- One step's update of an FP32 accumulator element (R120): groups of `n`, each summed exactly and rounded once. -/
def stepF32 (s : State) (m : MmaRun) (ta tb : Tile) (row col : Nat) (acc : Nat) : Nat :=
  let n := if ta.k = 32 then 8 else 16
  (List.range (ta.k / n)).foldl (fun acc g =>
    let sum := exactSum ((List.range n).map (fun i => productAt s m ta tb row col (g * n + i)))
    fF32.addCode rneMode acc (fF32.round rneMode sum)) acc

/-- One step's update of an FP64 accumulator element (R121): one fused multiply-add for each k. -/
def stepF64 (s : State) (m : MmaRun) (ta tb : Tile) (row col : Nat) (acc : Nat) : Nat :=
  (List.range ta.k).foldl (fun acc i =>
    fF64.round rneMode (FVal.add rneMode (fF64.value acc) (productAt s m ta tb row col i))) acc

/-- An accumulator with element `i` of `n`, each of `w` bits, replaced by `f i` of the old one (R142). -/
def mapAccum (w n : Nat) (f : Nat → Nat → Nat) (x : BitVec 32768) : BitVec 32768 :=
  let old (i : Nat) : Nat := x.toNat >>> (i * w) % 2 ^ w
  BitVec.ofNat 32768 ((List.range n).foldr (fun i y => f i (old i) % 2 ^ w + 2 ^ w * y) 0
    + (x.toNat >>> (n * w)) <<< (n * w))

/-- The accumulator after a step (R120, R121, R142). -/
def stepAccum (s : State) (m : MmaRun) (ta tb : Tile) (x : BitVec 32768) : BitVec 32768 :=
  if m.cfg.fa = 0 then mapAccum 64 256 (fun i a => stepF64 s m ta tb (i / 16) (i % 16) a) x
  else mapAccum 32 1024 (fun i a => stepF32 s m ta tb (i / 32) (i % 32) a) x

/-! ### Data errors (R153, R154) -/

/-- MXLOC for an element of ring `ring`: its tile row and column and its channel. -/
def mxlocOf (ring : BitVec 3) (row col ch : Nat) : Word :=
  BitVec.ofNat 64 (2 ^ 63 + ring.toNat * 2 ^ 40 + row * 2 ^ 32 + col * 2 ^ 24 + ch % 2 ^ 16)

/-- The errors met in an operand tile over the channels fetched: `loc` names an element. -/
def tileErrors (s : State) (t : Tile) (ks : List Nat) (loc : Nat → Nat → Word) : List Word :=
  (List.range t.rows).flatMap fun row =>
    ks.flatMap fun k =>
      (if t.badElem s row k then [loc row k] else []) ++
      (match t.block with
       | none => []
       | some b => if t.badScale s row k then [loc row (k / b * b)] else [])

/-- Every error that a step meets. -/
def stepErrors (s : State) (m : MmaRun) (ta tb : Tile) : List Word :=
  let first := m.step * ta.k
  let ks := (List.range ta.k).map (fetchIndex m ta.k)
  tileErrors s ta (ks.map (·.1)).eraseDups (fun r k => mxlocOf m.ra r k (first + k)) ++
  tileErrors s tb (ks.map (·.2)).eraseDups (fun c k => mxlocOf m.rb k c (first + k))

/-- The errors of a step recorded for core `c`: which one comes first within a step is not stated, and is a free choice (log
entry 4). -/
def State.mxError (s : State) (c : Cid) (owner : Tid) (errs : List Word) : State :=
  if errs.isEmpty then s
  else
    let (v, s1) := s.freeWord
    let mx := (s1.coreOf c).mx
    if bit mx.mxerr 0 then s1
    else
      let loc := (errs[v.toNat % errs.length]?).getD 0
      let s2 := s1.updCore c fun x => { x with mx := { x.mx with mxerr := setBit x.mx.mxerr 0 true, mxloc := loc } }
      if bit mx.mxerr 8 then s2.postCause owner ⟨0x13, 0, loc⟩ else s2

/-! ### The queue -/

/-- The core's two-entry matrix queue is full (R144). -/
def Core.matrixFull (c : Core) : Bool := 2 ≤ c.mx.queue.length
def Core.pushMatrix (c : Core) (o : MxOp) : Core := { c with mx := { c.mx with queue := c.mx.queue ++ [o] } }

/-- The thread runs away from its home core (10_traps.md R169). -/
def Thread.displaced (t : Thread) : Bool := t.home != t.tid

/-- The slot in which a displaced thread is back at its home core, once the partition's map names that core again (10_traps.md R170): its
home slot, which is kept for it. -/
def State.homeSlot (s : State) (t : Thread) : Option Tid :=
  match (s.partOf t.part).target t.ident.ly t.ident.lx with
  | .core c =>
    let h := mkTid c (tidSlot t.home)
    if (s.coreOf c).stopped || (s.coreOf c).testing.isSome || (s.thread h).active then none else some h
  | .shadow _ => none

/-- A displaced thread parks at a matrix instruction until its home core is restored (R169); to move there it must have settled (04_threads.md
R67). -/
def waitHome (s : State) : Effort :=
  if (s.homeSlot s.th).isSome then s.whenSettled fun s => .parked (s.parkOn .displaced) else .parked (s.parkOn .displaced)

/-- A matrix instruction enters the queue: a displaced thread parks, and so does one that finds the queue full (R144, R169). -/
def enterMatrix (s : State) (f : State → Effort) : Effort :=
  if s.th.displaced then waitHome s
  else if s.core.matrixFull then .parked (s.parkOn (.engineQueue 2))
  else f s

/-- The instruction is queued, and its thread waits at it until it has taken effect; its status goes to w[d] (R144). -/
def queueMatrix (d : Reg) (o : MxOp) (s : State) : Effort :=
  .parked ((s.mapCore (·.pushMatrix o)).mapTh fun t => { t with pipe := { t.pipe with matrixWait := some d } })

/-- A thread whose matrix instruction has taken effect completes it. -/
def Thread.matrixDone (t : Thread) : Thread :=
  let t := t.finish
  { t with pipe := { t.pipe with matrixWait := none } }

/-- The status of a matrix instruction is written and its thread goes on. -/
def State.matrixStatus (s : State) (t : Tid) (d : Reg) (x : Word) : State :=
  let (ys, s1) := s.incomingWords (tidCore t) (tidSlot t) 12 allOnes [x]
  s1.updThread t fun th => (th.wr d (ys.headD 0)).matrixDone

/-- MCFG (R143, R354): the format configuration := w[a]. -/
def execMcfg (d a : Reg) (s : State) : Result :=
  issue (.mcfg d a) s none (wRegs [d, a]) fun s =>
    enterMatrix s fun s => queueMatrix d (.mcfg s.th.tid d (s.rd a)) s

/-- MRING (R145, R361): an operand ring := w[a]. -/
def execMring (d a : Reg) (s : State) : Result :=
  issue (.mring d a) s none (wRegs [d, a]) fun s =>
    enterMatrix s fun s => queueMatrix d (.mring s.th.tid d (s.rd a)) s

/-- The effect of RPUSH (R147, R370). -/
def rpushBody (d : Reg) (n : BitVec 3) (c : Word) (s : State) : Effort :=
  if s.th.displaced then waitHome s
  else
    afterPlain s fun s =>
      let r := s.core.mx.ring n
      let u := r.tail - r.head
      let fits := r.nslot ≠ 0 && u + c.toNat ≤ r.nslot
      let x : Word := if fits then BitVec.ofNat 64 (r.nslot - u - c.toNat) else allOnes
      let s1 := if fits then s.mapCore fun y => { y with mx := y.mx.setRing n { r with tail := r.tail + c.toNat } } else s
      .done (s1.unitWrite d x).advance

/-- RPUSH (R147): w[a] tiles pushed on ring c; w[d] := the free slots. -/
def execRpush (d a c : Reg) (s : State) : Result :=
  issue (.rpush d a c) s none (wRegs [d, a]) fun s => rpushBody d (c.extractLsb' 0 3) (s.rd a) s

/-- MZERO (R152, R363): acc c zeroed at its turn; the thread continues. -/
def execMzero (c : Reg) (s : State) : Result :=
  issue (.mzero c) s none [] fun s =>
    enterMatrix s fun s => .done (s.mapCore (·.pushMatrix (.mzero s.th.tid (c.extractLsb' 0 2)))).advance

/-- The place of `n` bytes at `addr`, aligned to `al`, in a local memory of the issuer's quad or the slice that stands for it, and for a store clear of the
special words (R151, R152; 05_work.md R85). -/
def quadPlace (s : State) (al n : Nat) (write : Bool) (addr : Word) : Except Cause Place :=
  if !addrMbz addr || addrSpace addr = 1 || addrSpace addr = 2 then .error (causeOf 0x05 addr)
  else
    let at_ := resolveLocal s.part s.th.agent addr
    let inQuad : Bool := at_.all (fun x => cidQuad (s.part.physical x.1 x.2) = cidQuad s.th.cid)
    if !inQuad then .error (causeOf 0x05 addr)
    else if addr.toNat % al ≠ 0 then .error (causeOf 0x04 addr)
    else
      match at_ with
      | some (y, x) =>
        let off := bits addr 20 0
        if localBytes < off + n || (write && coversWord y x off n) then .error (causeOf 0x06 addr)
        else .ok ((s.part.target y x).place off)
      | none => .error (causeOf 0x06 addr)
where
  coversWord (y : BitVec 7) (x : BitVec 6) (off n : Nat) : Bool :=
    doorbellOff < off + n || (y = 0 && x = 0 && watchdogOff < off + n)

/-- A quad access of `n` bytes as a plain one: an earlier fault, the checks, the waits, and then the queue. -/
def quadAccess (al n : Nat) (write : Bool) (addr : Word) (o : MxOp) (s : State) : Effort :=
  match s.reportAt addr true with
  | some c => .trap c
  | none =>
    if s.th.displaced then waitHome s
    else
      match quadPlace s al n write addr with
      | .error c => .trap c
      | .ok pl =>
        if s.accessWaits false pl.key n || s.stalled addr n write then .parked (s.parkOn .issue)
        else enterMatrix s (queueMatrix 0 o)

/-- Rows of a view, 128 bytes each (R142, R152). -/
def viewRows (view : Reg) : Nat := if view = 0 then 32 else 16

/-- MST (R152, R362): acc c stored at w[a] in the view b. -/
def execMst (a b c : Reg) (s : State) : Result :=
  issue (.mst a b c) s none (wRegs [a]) fun s =>
    quadAccess 64 (128 * viewRows b) true (s.rd a) (.mst s.th.tid (s.rd a) b (c.extractLsb' 0 2) 0) s

/-- MDUP (R151, R356): the map := the 128 bytes at w[a]. -/
def execMdup (a : Reg) (s : State) : Result :=
  issue (.mdup a) s none (wRegs [a]) fun s => quadAccess 128 128 false (s.rd a) (.mdup s.th.tid (s.rd a)) s

/-- MMA (R360): queued; the thread is not eligible until its last step has retired (R58). -/
def execMma (c : BitVec 2) (a b : BitVec 3) (x y : BitVec 2) (z : BitVec 1) (k : BitVec 8) (u : BitVec 1) (s : State) : Result :=
  let i : Instr := .mma c a b x y z k u
  issue i s none [] fun s =>
    enterMatrix s fun s =>
      .done ((s.mapCore (·.pushMatrix (.mma s.th.tid i))).advance.mapTh fun t => { t with pipe := { t.pipe with mmaWait := true } })

/-! ### The unit -/

/-- The MMA that an instruction starts, with what it captures (R144, R360). -/
def captured (m : Matrix) (t : Tid) : Instr → Option MmaRun
  | .mma c a b x y z k u => some
    { owner := t, acc := c, ra := a, rb := b, bka := x, bkb := y, zero := z = 1, left := k.toNat + 1, step := 0, dup := u = 1,
      cfg := m.cfg, map := m.map }
  | _ => none

/-- The tile is larger than the slot, or its block than K (R149). -/
def Tile.unfit (t : Tile) (r : MxRing) : Bool :=
  64 * r.tile < t.elemBytes + t.scaleBytes ||
  (match t.block with
   | none => false
   | some b => t.k < b)

/-- The MMA is refused (R149). -/
def mmaRefused (s : State) (c : Cid) (m : Matrix) (r : MmaRun) : Bool :=
  let a := m.ring r.ra
  let b := m.ring r.rb
  a.nslot = 0 || b.nslot = 0 || r.ra = r.rb
  || (headTile s c a r.cfg.fa r.cfg.sca r.bka).unfit a || (headTile s c b r.cfg.fb r.cfg.scb r.bkb).unfit b
  || (r.dup && (List.range r.left).any (fun i => i * classK r.cfg.fa < 1024 && bit r.map (i * classK r.cfg.fa)))

/-- The owner of an MMA is eligible again. -/
def Thread.mmaDone (t : Thread) : Thread := { t with pipe := { t.pipe with mmaWait := false } }

/-- The queue without its head. -/
def Core.popMatrix (c : Core) : Core := { c with mx := { c.mx with queue := c.mx.queue.drop 1 } }

/-- Row `row` of an accumulator: 128 bytes in either view (R142). -/
def accRow (x : BitVec 32768) (row : Nat) : Nat := x.toNat >>> (1024 * row) % 2 ^ 1024

/-- An access of a matrix instruction of thread `t` to 128 bytes waits for a job's footprint (06_ordering.md R104). -/
def State.rowStalled (s : State) (c : Cid) (t : Tid) (ra : Word) (store : Bool) : Bool :=
  let x := s.thread t
  (s.coreOf c).scoreboard (absolute (s.partOf x.part) x.agent ra) 128 store

/-- The next row of thread `t`'s MST waits: words of the last one stand behind another agent's hold (03_addresses.md R49), or a job's footprint
covers it. -/
def State.rowWaits (s : State) (c : Cid) (t : Tid) (ra : Word) : Bool := s.writesWait t || s.rowStalled c t ra true

/-- The MST at the head stores its next row, when it may; a word of it that another agent holds waits at its memory, and the next row for it
(R152; 21 R362). -/
def State.storeRow (s : State) (c : Cid) (t : Tid) (addr : Word) (view : Reg) (k : BitVec 2) (row : Nat) : State :=
  let ra := addr + BitVec.ofNat 64 (128 * row)
  let ended (s : State) : State := (s.updCore c (·.popMatrix)).updThread t Thread.matrixDone
  if row = viewRows view then (if s.writesWait t then s else ended s)
  else
    match resolve s (s.thread t).agent .engineWrite 64 ra with
    | .error _ => ended s
    | .ok pl =>
      if s.rowWaits c t ra || s.pathTaken c pl.key then s
      else
        let x := accRow ((s.coreOf c).mx.accum k) row
        let s1 := s.storeWords t 11 ra pl ((List.range 16).map fun i => BitVec.ofNat 64 (x >>> (64 * i)))
        if row + 1 < viewRows view || s1.writesWait t then
          s1.updCore c fun x => { x with mx := { x.mx with queue := .mst t addr view k (row + 1) :: x.mx.queue.drop 1 } }
        else ended s1

/-- The MDUP at the head reads the map, once no job writes there (R151, R356; 06_ordering.md R104); an uncorrectable error is its thread's trap (10_traps.md R165). -/
def State.loadMap (s : State) (c : Cid) (t : Tid) (addr : Word) : State :=
  match resolve s (s.thread t).agent .engineRead 128 addr with
  | .error _ => (s.updCore c (·.popMatrix)).updThread t Thread.matrixDone
  | .ok pl =>
    if s.rowStalled c t addr false || s.pathTaken c pl.key then s else
    let s1 := s.updCore c (·.popMatrix)
    match dataError s pl addr 128 with
    | some x =>
      s1.asThread t fun s => (s.mapTh fun t => { t with pipe := { t.pipe with matrixWait := none } }).takeTrap x
    | none =>
      let ws := unitWords s (s.partOf (s.thread t).part) pl 16
      let map : BitVec 1024 := BitVec.ofNat 1024 (ws.foldr (fun w n => w.toNat + 2 ^ 64 * n) 0)
      (s1.updCore c fun x => { x with mx := { x.mx with map := map } }).updThread t Thread.matrixDone

/-- The head of core `c`'s queue takes effect, when it may (R144). -/
def State.matrixHead (s : State) (c : Cid) : State :=
  let m := (s.coreOf c).mx
  let idle := m.run.isNone
  match m.queue with
  | [] => s
  | .mcfg t d v :: _ =>
    let s1 := s.updCore c (·.popMatrix)
    match mcfgOf v with
    | none => s1.matrixStatus t d 1
    | some cfg => (s1.updCore c fun x => { x with mx := { x.mx with cfg := cfg } }).matrixStatus t d 0
  | .mring t d v :: _ =>
    if !idle then s
    else
      let s1 := s.updCore c (·.popMatrix)
      match mringOf v with
      | none => s1.matrixStatus t d 1
      | some r => (s1.updCore c fun x => { x with mx := x.mx.setRing (v.extractLsb' 61 3) r }).matrixStatus t d 0
  | .mzero _ k :: _ =>
    if !idle then s else (s.updCore c (·.popMatrix)).updCore c fun x => { x with mx := x.mx.setAccum k 0 }
  | .mst t addr view k row :: _ => if !idle then s else s.storeRow c t addr view k row
  | .mdup t addr :: _ => s.loadMap c t addr
  | .mma t i :: _ =>
    if !idle then s
    else
      let s1 := s.updCore c (·.popMatrix)
      match captured m t i with
      | none => s1
      | some r =>
        if mmaRefused s c m r then
          (s1.updCore c fun x => { x with mx := { x.mx with mxerr := setBit x.mx.mxerr 1 true } }).updThread t Thread.mmaDone
        else s1.updCore c fun x => { x with mx := { x.mx with run := some r } }

/-- MATRIX_QUEUE_HEAD (R144): a matrix instruction leaves core `c`'s queue and takes effect. -/
def execMatrixQueueHead (c : Cid) (s : State) : Result := .next (s.matrixHead c)

/-- Both tiles of the running MMA's next step are pushed (R148). -/
def Matrix.stepReady (m : Matrix) : Bool :=
  match m.run with
  | none => false
  | some r => (m.ring r.ra).pushed && (m.ring r.rb).pushed

/-- One step of the running MMA of core `c` (R150). -/
def State.matrixStep (s : State) (c : Cid) (r : MmaRun) : State :=
  let m := (s.coreOf c).mx
  let ta := headTile s c (m.ring r.ra) r.cfg.fa r.cfg.sca r.bka
  let tb := headTile s c (m.ring r.rb) r.cfg.fb r.cfg.scb r.bkb
  let old := if r.step = 0 && r.zero then 0 else m.accum r.acc
  let acc := stepAccum s r ta tb old
  let s1 := s.updCore c fun x => { x with mx :=
    { ((x.mx.setAccum r.acc acc).setRing r.ra (m.ring r.ra).pop).setRing r.rb (m.ring r.rb).pop with
      run := if r.left ≤ 1 then none else some { r with left := r.left - 1, step := r.step + 1 } } }
  let s2 := s1.mxError c r.owner (stepErrors s r ta tb)
  if r.left ≤ 1 then s2.updThread r.owner Thread.mmaDone else s2

/-- The core's number in its quad (R145). -/
def quadNumber (c : Cid) : BitVec 2 := (cidPY c).extractLsb' 0 1 ++ (cidPX c).extractLsb' 0 1

/-- The unit of the core's quad serves core `c` next: among the quad's cores that are candidates it comes first after the last one served
(R148). -/
def State.unitTurn (s : State) (c : Cid) : Bool :=
  let last := (s.dispenser (cidQuad c)).served
  (s.coreOf c).mx.stepReady &&
  ((List.range 4).map fun k => quadCore c (last + 1 + BitVec.ofNat 2 k)).find? (fun x => (s.coreOf x).mx.stepReady) == some c

/-- MMA_STEP (R148, R150): core `c`'s MMA computes its next step, when both tiles are pushed and it is the core's turn; its quad's unit
remembers the core. -/
def execMmaStep (c : Cid) (s : State) : Result :=
  .next (match (s.coreOf c).mx.run with
    | some r =>
      if s.unitTurn c then
        let d := s.dispenser (cidQuad c)
        (s.putDispenser { d with served := quadNumber c }).matrixStep c r
      else s
    | none => s)

end Sys2Proof.Machine
end

