-- ==== Sys2Proof/Machine/Collectives.lean ====
section
/-! DEFINITION. COLL and its die engine (11_engines.md R191 to R194; 20 R325), BAR at the tree's root (R195, R196; 20 R322), and QUIES
with the partition's idle AND (R197; 22 R365). -/
namespace Sys2Proof.Machine

/-- Every core that has an entry. -/
def State.allCores (s : State) : List Core := s.core :: s.cores

/-! ### COLL -/

def CollOp.dies (q : CollOp) : BitVec 16 := q.word3.extractLsb' 48 16
def CollOp.count (q : CollOp) : Nat := bits q.word3 28 16
def CollOp.agent (q : CollOp) : Agent := ⟨q.owner, q.part, q.ly, q.lx, q.user⟩

/-- Peer modules that take part (R191). DESIGN CHOICE (log entry 92): the bit of the issuing module itself is left out, also where participants
are compared on MODS (R192). -/
def CollOp.peers (q : CollOp) : Word := setBit q.mods Config.moduleNumber.toNat false

/-- A COLL with the tag stands on the die (R192). -/
def State.tagOnDie (s : State) (die : BitVec 4) (tag : Word) : Bool :=
  s.allCores.any (fun c => c.cq.any (fun q => q.die == die && q.tag == tag))

/-- The COLL is refused (R192). -/
def collRefused (s : State) (die : BitVec 4) (ws : List Word) : Bool :=
  let w3 := recWord ws 3
  6 < bits w3 3 0 || bits w3 28 16 = 0 || 4096 < bits w3 28 16 || bits w3 47 42 ≠ 0 || bits w3 31 29 ≠ 0 || bits w3 15 4 ≠ 0
  || recWord ws 5 ≠ 0 || recWord ws 6 ≠ 0 || recWord ws 7 ≠ 0 || (recWord ws 0).toNat % 64 ≠ 0 || (recWord ws 1).toNat % 64 ≠ 0
  || !bit w3 (48 + die.toNat) || s.tagOnDie die (recWord ws 2)

/-- The core's two-entry collective queue is full (R178). -/
def Core.collFull (c : Core) : Bool := 2 ≤ (c.cq.filter (fun q => q.input.isNone)).length

/-- COLL (R192): the collective of the descriptor at w[a]; w[d] receives the status. -/
def execColl (d a l : Reg) (s : State) : Result :=
  issue (.coll d a l) s none (wRegs [d, a]) fun s =>
    afterPlain s (unitAccess 64 1 (s.rd a) · fun ps s =>
      let ws := pieceWords s 64 ps
      let die := cidDie s.th.cid
      if collRefused s die ws then unitAnswer d l 1 s
      else if s.core.collFull then .parked (s.parkOn (.engineQueue 3))
      else
        let q : CollOp :=
          { owner := s.th.tid, part := s.th.part, ly := s.th.ident.ly, lx := s.th.ident.lx, user := s.th.isUser,
            order := s.nextId, reg := d, die := die, src := s.absAddr (recWord ws 0), dst := s.absAddr (recWord ws 1),
            tag := recWord ws 2, word3 := recWord ws 3, mods := recWord ws 4, input := none }
        let s1 : State := { s.mapCore (fun c => { c with cq := c.cq ++ [q] }) with nextId := s.nextId + 1 }
        .done (if d = 0 then s1 else s1.wait d l (.collective q.tag)).advance)

/-- `n` bytes read in granules from `a` on for agent `ag`: none on a read fault or an uncorrectable error. -/
def engineBytes (s : State) (ag : Agent) : Nat → Nat → Word → Option (List Byte)
  | 0, _, _ => some []
  | fuel + 1, n, a =>
    if n = 0 then some []
    else
      let m := Nat.min 64 n
      match resolve s ag .engineRead 64 a with
      | .error _ => none
      | .ok pl =>
        if (dataError s pl a m).isSome then none
        else
          let g := unitGranule s (s.partOf ag.part) pl
          match engineBytes s ag fuel (n - m) (a + 64) with
          | none => none
          | some bs => some ((List.range m).map (fun k => BitVec.ofNat 8 (g / 256 ^ k)) ++ bs)

/-- The COLL is the broadcast's root (R191). -/
def CollOp.isRoot (q : CollOp) : Bool :=
  q.word3.extractLsb' 36 6 == Config.moduleNumber && q.word3.extractLsb' 32 4 == q.die

/-- The COLL may leave its core's queue: the first of the core, behind no overlapping job, with one of the die's 16 places free
(R103, R192, R194). -/
def State.collMayLeave (s : State) (c : Core) (q : CollOp) : Bool :=
  q.input.isNone && c.cq.find? (fun x => x.input.isNone) == some q && !c.earlierClash q.order q.foot &&
  (s.allCores.map (fun c => (c.cq.filter (fun x => x.input.isSome && x.die == q.die)).length)).sum < 16

/-- The input as it stands when the COLL leaves the queue (R194); a broadcast reads the root's only (R193). -/
def State.collInput (s : State) (q : CollOp) : List Byte :=
  if q.op = 5 && !q.isRoot then [0] else (engineBytes s q.agent 512 q.len q.src).getD []

/-- The numbers that `n` bytes each make, little-endian. -/
def elements (n : Nat) : Nat → List Byte → List Nat
  | 0, _ => []
  | k + 1, bs => (bs.take n).foldr (fun b acc => b.toNat + 256 * acc) 0 :: elements n k (bs.drop n)

/-- An argmax pair's value as an integer in the order of R193, a NaN as minus infinity. -/
def argKey (x : Nat) : Int :=
  let v := x % 2 ^ 32
  let c := if 0x7F800000 < v % 2 ^ 31 then 0xFF800000 else v
  if 2 ^ 31 ≤ c then -((c % 2 ^ 31 : Nat) : Int) - 1 else (c : Int)

/-- The better of two pairs (R193). -/
def better (p q : Nat) : Bool :=
  if argKey p ≠ argKey q then argKey q < argKey p else p / 2 ^ 32 < q / 2 ^ 32

/-- Two elements combined, the one of lower rank first (R193). -/
def combine (op : Nat) (r x : Nat) : Nat :=
  match op with
  | 0 => fF32.addCode rneMode r x
  | 1 => fF64.addCode rneMode r x
  | 2 => (r + x) % 2 ^ 64
  | 3 => fF32.maxCode r x
  | 4 => if (BitVec.ofNat 64 r).slt (BitVec.ofNat 64 x) then x else r
  | _ => if better x r then x else r

/-- The result's elements from the participants' inputs in rank order (R193). -/
def collResult (op count n : Nat) (root : List Byte) : List (List Byte) → List Nat
  | [] => []
  | x :: xs =>
    if op = 5 then elements n count root
    else xs.foldl (fun acc y => List.zipWith (combine op) acc (elements n count y)) (elements n count x)

/-- The broadcast's root takes part: its die on a participating module. -/
def CollOp.rootIn (q : CollOp) : Bool := bit (setBit q.peers Config.moduleNumber.toNat true) (bits q.word3 41 36) && bit q.dies (bits q.word3 35 32)

/-- The participants disagree, or the broadcast root is none of them (R192, R193). -/
def collDisagree (qs : List CollOp) : Bool :=
  match qs with
  | [] => false
  | q :: rest => rest.any (fun x => x.word3 ≠ q.word3 || x.peers ≠ q.peers) || (q.op = 5 && !q.rootIn)

/-- The number of bytes that a list makes, little-endian. -/
def bytesNat (bs : List Byte) : Nat := bs.foldr (fun b acc => b.toNat + 256 * acc) 0

/-- The result written to one participant's DST in ascending granules: its status and the state (R194). -/
def collWrite (q : CollOp) : Nat → List Byte → Word → State → Word × State
  | 0, _, _, s => (0, s)
  | fuel + 1, bs, a, s =>
    if bs = [] then (0, s)
    else
      let m := Nat.min 64 bs.length
      match resolve s q.agent .engineWrite 64 a with
      | .error _ => (2, s)
      | .ok pl =>
        if (List.range ((m + 7) / 8)).any (fun k => specialAt (s.partOf q.part) pl.space (pl.off + 8 * k)) then (2, s)
        else collWrite q fuel (bs.drop m) (a + 64) (s.storeAt pl q.owner 12 m (bytesNat (bs.take m)))

/-- The COLL retires with its status in its thread's register. -/
def State.collDone (s : State) (q : CollOp) (st : Word) : State :=
  let s1 := s.updCore (tidCore q.owner) fun c => { c with cq := c.cq.filter (· != q) }
  if q.reg = 0 then s1
  else ((s1.updThread q.owner (·.arrive (wReg q.reg) (st.setWidth 512)))).logArrival (tidCore q.owner) 12 (tidSlot q.owner) allOnes st

/-- Each participant's result written, and each retired (R194). -/
def collFinish (bs : List Byte) : List CollOp → State → State
  | [], s => s
  | q :: qs, s =>
    let (st, s1) := collWrite q 513 bs q.dst s
    collFinish bs qs (s1.collDone q st)

/-- A granule of a participant's DST lies behind another thread's hold (03_addresses.md R49). -/
def State.collHeld (s : State) (q : CollOp) : Bool :=
  (List.range ((q.len + 63) / 64)).any fun k =>
    match resolve s q.agent .engineWrite 64 (q.dst + BitVec.ofNat 64 (64 * k)) with
    | .ok pl => (s.heldByOther (some q.owner) pl.key 64).isSome
    | .error _ => false

/-- The participants of the tag in rank order. -/
def State.participants (s : State) (tag : Word) : List CollOp :=
  (List.range 16).filterMap fun n =>
    (s.allCores.map (fun c => c.cq)).flatten.find? (fun q => q.tag == tag && q.die.toNat = n && q.input.isSome)

/-- Every participant of the tag on this module has arrived (R192): every die of DIES. DESIGN CHOICE (log entry 92): the lowest arrived die's
DIES, where they differ. -/
def collComplete (qs : List CollOp) : Bool :=
  match qs with
  | [] => false
  | q :: _ => (List.range 16).all (fun n => !bit q.dies n || qs.any (fun x => x.die.toNat = n))

/-- The result of a matched instance waits behind a hold. -/
def State.collBlocked (s : State) (qs : List CollOp) : Bool :=
  !collDisagree qs && !qs.any (·.input = some []) && qs.any s.collHeld

/-- No participant names a peer module. -/
def collLocal (qs : List CollOp) : Bool := qs.all (fun q => q.peers = 0)

/-- The participants of module `m`, with the numbers of their dies, in ascending order. -/
def CollOp.places (q : CollOp) : List (Nat × Nat) :=
  ((List.range 64).filter (bit (setBit q.peers Config.moduleNumber.toNat true))).flatMap fun m =>
    ((List.range 16).filter (bit q.dies)).map fun n => (m, n)

/-- `n` bytes that nothing fixes. -/
def State.freeBytes (s : State) (n : Nat) : List Byte × State :=
  let (ws, s1) := s.freeWords ((n + 7) / 8)
  ((ws.flatMap fun w => (List.range 8).map fun k => BitVec.ofNat 8 (w.toNat / 256 ^ k)).take n, s1)

/-- The inputs of participants in rank order: of this module the bytes that its COLLs read, of a peer module free ones (log entry 41). -/
def State.collInputs (s : State) (qs : List CollOp) (n : Nat) : List (Nat × Nat) → List ((Nat × Nat) × List Byte) × State
  | [] => ([], s)
  | (m, k) :: ps =>
    let (bs, s1) := if m = Config.moduleNumber.toNat then (((qs.find? (·.die.toNat = k)).bind (·.input)).getD [], s) else s.freeBytes n
    let (rest, s2) := s1.collInputs qs n ps
    (((m, k), bs) :: rest, s2)

/-- What the peer modules of a matched instance bring about: 0 they agree and read their inputs, 2 one of them could not, 3 they disagree
with this module's participants. What they did is free (log entry 41). -/
def State.collPeers (s : State) (qs : List CollOp) : Word × State :=
  if collLocal qs then (0, s)
  else
    let (w, s1) := s.freeWord
    (if bits w 1 0 < 2 then 0 else BitVec.ofNat 64 (bits w 1 0), s1)

/-- A matched instance is combined and written (R193, R194). -/
def State.collRun (s : State) (qs : List CollOp) : State :=
  match qs with
  | [] => s
  | q :: _ =>
    let (st, s1) := s.collPeers qs
    if collDisagree qs || st = 3 then qs.foldl (fun s q => s.collDone q 3) s1
    else if qs.any (fun x => x.input = some []) || st = 2 then qs.foldl (fun s q => s.collDone q 2) s1
    else
      let (ins, s2) := s1.collInputs qs q.len q.places
      let root := ((ins.find? (·.1 == (bits q.word3 41 36, bits q.word3 35 32))).map (·.2)).getD []
      let xs := collResult q.op q.count q.elem root (ins.map (·.2))
      collFinish ((xs.map (fun x => (List.range q.elem).map (fun k => BitVec.ofNat 8 (x / 256 ^ k)))).flatten) qs s2

/-- A queued COLL of the tag that may leave its core's queue, with its core. -/
def State.collLeaver (s : State) (tag : Word) : Option (Core × CollOp) :=
  (s.allCores.map (fun c => (c.cq.filter (fun q => q.tag == tag && s.collMayLeave c q)).map (fun q => (c, q)))).flatten.head?

/-- A participant of the tag whose instance counts on a peer module that no link reaches (18_host.md R297). -/
def State.collLost (s : State) (tag : Word) : Option CollOp :=
  (s.participants tag).find? fun q => (List.range 64).any fun m => bit q.peers m && peerDown s (BitVec.ofNat 6 m)

/-- COLL_MATCH (R192, R194): a queued COLL of the tag leaves its core's queue with its input; once all have, the instance is
combined. One that counts on a peer which no link reaches receives status 2 (18_host.md R297). An instance with peer modules goes on when
they have arrived, which the outside tells. -/
def execCollMatch (tag : Word) (s : State) : Result :=
  .next (match s.collLeaver tag with
    | some (c, q) => s.updCore c.cid fun c => { c with
        cq := c.cq.map (fun x => if x == q then { x with input := some (s.collInput x) } else x) }
    | none =>
      match s.collLost tag with
      | some q => s.collDone q 2
      | none =>
        let qs := s.participants tag
        if collComplete qs && !s.collBlocked qs then s.collRun qs else s)

/-! ### BAR -/

/-- A BAR on barrier `n` by thread `tid` reaches the root (R196): with COUNT 0 it completes at once with GEN. -/
def State.barAtRoot (s : State) (tid : Tid) (p : BitVec 6) (n : BitVec 6) : State :=
  let x := (s.partOf p).bar n
  if barCount x = 0 then
    let s1 := s.updThread tid fun t => { t with pipe := { t.pipe with pend := countFirst n t.pipe.pend } }
    answerAll (atBarrier n) (BitVec.ofNat 64 (barGen x)) [s1.thread tid] s1
  else s.arriveBar tid p n

/-- A BAR of the thread has not reached its arrival: a relaxed access, a job or a COLL of the thread is not complete (R103, R196). -/
def State.barWaits (s : State) (t : Thread) : Bool :=
  s.outstandingOf t (·.op.relaxed) || s.hasJobOf t || (s.coreOf t.cid).cq.any (·.owner == t.tid)

/-- Before its arrival BAR waits for relaxed accesses and for the thread's engine jobs (R187, R196, R322); a job of the thread that stands
FAULTED abandons it, as one that faults while it waits does. -/
def barBody (d la : Reg) (n : BitVec 6) (s : State) : Effort :=
  match s.th.faultCause with
  | some c => .trap c
  | none =>
    if s.core.jobs.any (fun j => j.owner == s.th.tid && j.st = .faulted) then unitAnswer d la allOnes s
    else if s.barWaits s.th then
      .parked (s.parkOn (.bar d la))
    else .done (s.wait d la (.barrier n false)).advance

/-- BAR (R196): arrives at barrier bits(w[a], 5, 0). -/
def execBar (d a l : Reg) (s : State) : Result :=
  issue (.bar d a l) s none (wRegs [d, a]) fun s => barBody d l ((s.rd a).extractLsb' 0 6) s

/-- BARRIER_ARRIVAL (R196): the arrival of thread `t` reaches the tree's root. -/
def execBarrierArrival (t : Tid) (s : State) : Result :=
  .next (match (s.thread t).pipe.pend.findSome? (fun p => match p.st with
      | .barrier n false => some n
      | _ => none) with
    | some n => s.barAtRoot t (s.thread t).part n
    | none => s)

/-! ### QUIES -/

/-- QUIES (R365): w[d] stays pending until the idle AND has held for 2,048 cycles; into w0 it does not wait. -/
def execQuies (d l : Reg) (s : State) : Result :=
  issue (.quies d l) s none (wRegs [d]) fun s =>
    if d = 0 then .done s.advance
    else .done ((s.mapPart fun p => { p with quietSince := none }).wait d l .quiet).advance

/-- The pending result is one for which a waiting slot counts as idle (R197). -/
def State.idleWait (s : State) (t : Thread) (p : Pending) : Bool :=
  match p.st with
  | .full _ _ | .quiet | .barrier _ _ => true
  | .message _ => (s.candidate t).isNone
  | _ => false

/-- The thread has a RECVV pending and nothing for it to deliver. -/
def State.recvEmpty (s : State) (t : Thread) : Bool :=
  t.pipe.pend.any (fun p => match p.st with
    | .message _ => true
    | _ => false) && (s.candidate t).isNone

/-- The slot counts as idle (R197, R69): parked under a cause of R69, or waiting only for results that count, be it in issue behind its RECVV
(06_ordering.md R100). -/
def State.slotIdle (s : State) (t : Thread) : Bool :=
  (match t.pipe.park with
   | some .issue => t.pipe.pend.any (·.st = .quiet) || s.recvEmpty t
   | some (.bar _ _) => true
   | some .budget | some .moving => false
   | some _ => true
   | none => t.exhausted.isSome) &&
  t.pipe.pend.all (fun p => p.st = .arrived || s.idleWait t p)

/-- The core counts as idle (R197). -/
def Core.engineIdle (c : Core) : Bool := c.jobs = [] && c.vq = [] && c.mx.queue = [] && c.mx.run.isNone && c.cq = []

/-- The partition's idle AND (R197). -/
def State.idle (s : State) (p : BitVec 6) : Bool :=
  (s.activeThreads.filter (·.part == p)).all s.slotIdle &&
  (s.allCores.filter (·.owner == some p)).all (·.engineIdle) &&
  !s.messages.any (fun m => m.part == p && m.st != .heldAtReceiver) && s.moves.all (fun m => m.thread.part != p) &&
  !s.transits.any (·.part == p) && !s.copies.any (·.part == p) &&
  !s.waiters.any (fun w => (match w.op, w.owner with
    | .effect e _ _, _ => e.part == p
    | _, some t => (s.thread t).part == p
    | _, none => false) && !w.withdrawable) &&
  (s.activeThreads.filter (·.part == p)).all fun t => !t.pipe.plainOut && t.pipe.posted = 0 && t.pipe.peerPosts = []

/-- A QUIES of the partition is pending. -/
def State.quiesPending (s : State) (p : BitVec 6) : Bool :=
  s.activeThreads.any (fun t => t.part == p && t.pipe.pend.any (fun q => q.st = .quiet))

/-- The idle AND of a partition sampled in a cycle: a span goes on, begins, or breaks (R197). -/
def State.sampleIdle (s : State) (p : Partition) : Partition :=
  if s.quiesPending p.num then
    { p with quietSince := if s.idle p.num then some (p.quietSince.getD s.cycle) else none }
  else p
def State.sampleAll (s : State) : State := { s with part := s.sampleIdle s.part, parts := s.parts.map s.sampleIdle }

/-- CLK at cycle `n` as core `c` reads it. -/
def State.clkAt (s : State) (c : Cid) (n : Nat) : Word := ({ s with cycle := n } : State).clk c

/-- The span of partition `p` is complete. -/
def State.spanDone (s : State) (p : BitVec 6) : Bool :=
  match (s.partOf p).quietSince with
  | some n => n + Config.quiescenceCycles ≤ s.cycle && s.quiesPending p
  | none => false

/-- QUIESCENCE_SPAN_COMPLETE (R197, R365): every pending QUIES of the partition receives the CLK value at the span's start. -/
def execQuiescenceSpanComplete (p : BitVec 6) (s : State) : Result :=
  .next (if s.spanDone p then
      match (s.partOf p).quietSince with
      | some n => (answerAll (· = .quiet) (s.clkAt 0 n) (s.activeThreads.filter (·.part == p)) s).updPart p fun x => { x with quietSince := none }
      | none => s
    else s)

end Sys2Proof.Machine
end

