-- ==== Sys2Proof/Machine/Frames.lean ====
section
/-! DEFINITION. AXBIND (15_time_axes.md R232; 17_run_ahead.md R272; 20 R321), the frames and tokens of a frame axis: FOPEN, FCONF, FUNW and
TOKEMIT (R275 to R278; 20 R337, R338; 22 R377), retirement and publication (R274, R280, R281), the reset of an axis (R272), and the host's
writes to its descriptor (18_host.md R294). -/
namespace Sys2Proof.Machine

/-! ### AXBIND -/

/-- AXBIND of mode `mode` is illegal (R232, R256, R272). -/
def State.bindIllegal (s : State) (a b mode : Word) : Bool :=
  let t := s.th
  t.gang.isSome || 3 ≤ mode ||
  (mode = 0 && (t.bound || 63 < a)) ||
  (mode = 1 && (t.bound || a < 64 || 16383 < a || (s.axisOf (a.extractLsb' 0 14)).owner ≠ some t.part ||
    (s.boundTo t.part a.toNat = [] && (bits b 8 0 < 1 || 256 < bits b 8 0)))) ||
  (mode = 2 && (t.st tBOOST || (t.bound && t.axisMode = 1 && s.lastBound &&
    (s.axisOf (BitVec.ofNat 14 t.axisNum)).frames ≠ [])))

/-- The thread bound to axis `n` in mode `mode` with window `win` (R232, R272). PUSHNO counts from here (16_boosted_tasks.md
R253). -/
def Thread.bindTo (t : Thread) (n : Word) (mode win : Nat) : Thread :=
  { t.setSt tSPEC true with
    ax := { t.ax with axis := BitVec.ofNat 64 (2 ^ 63 + mode * 2 ^ 61 + win * 2 ^ 16 + n.toNat), pushno := 0 } }

/-- The effect of AXBIND. -/
def bindBody (a b mode : Word) (s : State) : Effort :=
  if mode = 0 then .done (s.mapTh (·.bindTo a 0 0)).advance
  else if mode = 2 then .done s.unbind.advance
  else
    let n : BitVec 14 := a.extractLsb' 0 14
    if (s.axisOf n).draining then .parked (s.parkOn (.draining a.toNat))
    else
      let s1 := if s.boundTo s.th.part a.toNat = [] then s.updAxis n (fun x => { x with window := b.extractLsb' 0 9 }) else s
      .done (s1.mapTh (·.bindTo a 1 (s1.axisOf n).window.toNat)).advance

/-- AXBIND (R232, R272): binds to the axis w[a], or unbinds, by the mode in w[c]. -/
def execAxbind (a b c : Reg) (s : State) : Result :=
  let i : Instr := .axbind a b c
  issue i s (if s.bindIllegal (s.rd a) (s.rd b) (s.rd c) then some (illegal i) else none) (wRegs [a, b, c])
    (bindBody (s.rd a) (s.rd b) (s.rd c))

/-! ### Frames -/

/-- The thread is bound to a frame axis. -/
def Thread.onFrameAxis (t : Thread) : Bool := t.bound && t.axisMode = 1
def Thread.frameAxis (t : Thread) : BitVec 14 := BitVec.ofNat 14 t.axisNum

/-- A rollback event of the thread with a target at or below `v` is pending or in progress (R275). -/
def Thread.rollsAt (t : Thread) (v : Word) : Bool :=
  match t.rollTarget with
  | some x => x ≤ v
  | none => false

/-- The position is not above the newest retained one. -/
def FrameAxis.retains (a : FrameAxis) (v : Word) : Bool :=
  match a.newest with
  | some x => v ≤ x
  | none => false

/-- A refusal by FOPEN (R277). -/
def frameRefused : Word := allOnes - 1

/-- The effect of FOPEN at VT `p` (R277). In a handler and in an inverse routine no checkpoint is pushed (R246, R268). -/
def fopenBody (d : Reg) (p : Word) (s : State) : Effort :=
  let t := s.th
  if t.ax.rwd && p = zx t.ax.rvt then
    answer d allOnes (s.mapTh fun t => { t with ax := { t.ax with rwd := false } })
  else if s.recvPending then .parked (s.parkOn .issue)
  else if t.pushes && t.rw.free < 5 then .parked (s.parkOn (.stack 5))
  else if p ≤ t.ax.lvt then answer d frameRefused s
  else
    let a := s.axisOf t.frameAxis
    if a.retains p || t.rollsAt p then answer d frameRefused s
    else if 8 ≤ a.frames.length then .trap (causeOf 0x0E p)
    else
      let s1 := (s.putAxis { a with frames := a.frames ++ [(p, true)] }).mapTh fun t => { t with ax := { t.ax with lvt := p - 1 } }
      let s2 := if t.pushes then s1.checkpoint s1.th.w s1.th.pc else s1
      answer d (BitVec.ofNat 64 (t.axisNum * 2 ^ 32 + p.toNat)) (s2.mapTh fun t => { t with ax := { t.ax with lvt := p } })

/-- FOPEN (R277): opens a frame at VT w[a], or consumes an unwind. -/
def execFopen (d a : Reg) (s : State) : Result :=
  let i : Instr := .fopen d a
  let bad := s.th.gang.isSome || !s.th.onFrameAxis || 2 ^ 32 ≤ (s.rd a).toNat
  issue i s (if bad then some (illegal i) else none) (wRegs [d, a]) (fopenBody d (s.rd a))

/-- The axis of a frame id that is allotted to the current partition and holds the frame (R271, R278). -/
def State.frameNamed (s : State) (id : Word) : Option (FrameAxis × Word) :=
  let n := id.toNat / 2 ^ 32
  let p : Word := field id 31 0
  if n < 64 || 16384 ≤ n then none
  else
    let a := s.axisOf (BitVec.ofNat 14 n)
    if a.owner = some s.th.part && a.frames.any (·.1 = p) then some (a, p) else none

/-- The frames after the frame at `p` is confirmed: a PENDING frame older than every OPEN one is removed (R278). -/
def confirmFrames (p : Word) (fs : List (Word × Bool)) : List (Word × Bool) :=
  let gs := fs.map (fun f => if f.1 = p then (f.1, false) else f)
  match least ((gs.filter (·.2)).map (·.1)) with
  | none => []
  | some low => gs.filter (fun f => f.2 || low < f.1)

/-- FCONF (R278): confirms frame w[a]. -/
def execFconf (d a : Reg) (s : State) : Result :=
  let i : Instr := .fconf d a
  issue i s (if s.th.gang.isSome then some (illegal i) else none) (wRegs [d, a]) fun s =>
    match s.frameNamed (s.rd a) with
    | none => answer d 1 s
    | some (x, p) =>
      if x.frames.contains (p, true) then
        answer d 0 ((s.putAxis { x with frames := confirmFrames p x.frames }).recompute x.num)
      else answer d 0 s

/-- The unwind is to be consumed by the thread's FOPEN at `p`, or at a lower one (R278). -/
def Thread.unwindAt (t : Thread) (p : Half) : Thread :=
  { t with ax := { t.ax with rwd := true, rvt := if t.ax.rwd && t.ax.rvt < p then t.ax.rvt else p } }

/-- Step 4 of FUNW for one bound thread (R278). -/
def State.unwindThread (s : State) (p : BitVec 6) (h v : Word) : State :=
  (match s.byHandle p h with
   | some t => s.updThread t.tid (·.unwindAt (v.setWidth 32))
   | none => s.updSaved p h (·.unwindAt (v.setWidth 32))).rollbackOwner p h v

/-- FUNW on the frame of VT `v` of axis `x` (R278). -/
def State.unwindFrame (s : State) (x : FrameAxis) (v : Word) : State :=
  let p := s.th.part
  let n := x.num.toNat
  let s1 := s.putAxis { x with frames := x.frames.filter (·.1 < v), tokens := x.tokens.filter (·.pos < v) }
  let s2 := s1.eachCore (·.cancelFrom p n v)
  let s3 := ((s2.boundTo p n).map (·.handle)).foldl (fun s h => s.unwindThread p h v) s2
  s3.recompute x.num

/-- FUNW (R278): unwinds frame w[a] and everything above it. -/
def execFunw (d a : Reg) (s : State) : Result :=
  let i : Instr := .funw d a
  issue i s (if s.th.gang.isSome then some (illegal i) else none) (wRegs [d, a]) fun s =>
    match s.frameNamed (s.rd a) with
    | none => answer d 1 s
    | some (x, p) => answer d 0 (s.unwindFrame x p)

/-! ### Tokens -/

/-- Another thread waits for room in the retirement buffer of axis `n`, or has been woken for it, ahead of the current one (R275). -/
def State.aheadForTokens (s : State) (n : Nat) : Bool :=
  s.th.pipe.turn ≠ some n &&
  s.activeThreads.any fun x => x.tid ≠ s.th.tid && (x.pipe.park == some (.tokens n) || x.pipe.turn == some n)

/-- The thread comes next for no retirement buffer any more. -/
def State.endTurn (s : State) : State := s.mapTh fun t => { t with pipe := { t.pipe with turn := none } }

/-- The effect of TOKEMIT of `token` at position `v` with `flags` (R275). -/
def tokemitBody (d : Reg) (token : Half) (v : Word) (flags : BitVec 16) (s : State) : Effort :=
  afterPlain s fun s =>
    let a := s.axisOf s.th.frameAxis
    if s.th.rollsAt v then answer d 2 s.endTurn
    else if v < a.hzn || a.retains v then answer d 1 s.endTurn
    else if a.window.toNat ≤ a.tokens.length || s.aheadForTokens s.th.axisNum then .parked (s.parkOn (.tokens s.th.axisNum))
    else
      let s1 := (s.endTurn.putAxis { a with tokens := a.tokens ++ [⟨v, token, flags⟩] }).recompute a.num
      answer d 0 (s1.mapTh fun t => if t.ax.lvt < v then { t with ax := { t.ax with lvt := v } } else t)

/-- TOKEMIT (R275): appends a token to the frame axis's retirement buffer. -/
def execTokemit (d a b c : Reg) (s : State) : Result :=
  let i : Instr := .tokemit d a b c
  let bad := s.th.gang.isSome || !s.th.onFrameAxis || 2 ^ 32 ≤ (s.rd b).toNat
  issue i s (if bad then some (illegal i) else none) (wRegs [d, a, b, c])
    (tokemitBody d ((s.rd a).setWidth 32) (s.rd b) ((s.rd c).setWidth 16))

/-- The token is published as it retires (R274, R280). -/
def FrameAxis.publishes (a : FrameAxis) (t : Token) : Bool := a.ringSize ≠ 0 && !bit t.flags 0

/-- The tokens that can retire now, in ascending position: below HZN, and where they are published while the ring has room
(R274, R280). -/
def FrameAxis.batch (a : FrameAxis) : Word → List Token → List Token
  | _, [] => []
  | n, t :: ts =>
    if a.hzn ≤ t.pos then []
    else if a.publishes t then
      if a.ringSize ≤ (n - a.head).toNat then [] else t :: a.batch (n + 1) ts
    else t :: a.batch n ts

/-- An entry of the host token ring (R280). -/
def tokenEntry (n : BitVec 14) (t : Token) : List Word :=
  [BitVec.ofNat 64 (t.token.toNat * 2 ^ 32 + t.pos.toNat % 2 ^ 32), BitVec.ofNat 64 (t.flags.toNat * 2 ^ 16 + n.toNat)]

/-- The published tokens written as entries from number `n` on (R280). -/
def writeEntries (a : FrameAxis) : Word → List Token → Mem → Mem
  | _, [], m => m
  | n, t :: ts, m =>
    writeEntries a (n + 1) ts (writeWords m (hostKey (a.base.toNat + 16 * (n.toNat % a.ringSize))) (tokenEntry a.num t))

/-- A batch retires: its entries are written, then the tail once (R281); none while its partition is switched out (10_traps.md R171). -/
def State.retireBatch (s : State) (a : FrameAxis) : State :=
  let ts := if a.owner.any s.away then [] else a.batch a.published a.tokens
  match ts.getLast? with
  | none => s
  | some last =>
    let pub := ts.filter a.publishes
    let count := a.published + BitVec.ofNat 64 pub.length
    let m := writeEntries a a.published pub s.mem
    let m1 := if pub = [] then m else m.writeN (hostKey a.tailAddr.toNat) 8 count.toNat
    ({ s with mem := m1 }.putAxis { a with
      tokens := a.tokens.drop ts.length, retired := some last.pos, published := count }).recompute a.num

/-- TOKEN_RETIREMENT_BATCH (R281). -/
def execTokenRetirementBatch (ax : BitVec 14) (s : State) : Result := .next (s.retireBatch (s.axisOf ax))

/-- The entries that the axis's threads filed are all performed (R272). -/
def State.effectsDone (s : State) (a : FrameAxis) : Bool :=
  let save := (s.partOf (a.owner.getD 0)).save
  (s.core :: s.cores ++ save.cores ++ save.outCores).all fun c =>
    !c.commits.any fun e => a.owner.any (e.filedOn · a.num.toNat) && e.kind.toNat < 14

/-- The axis may be reset (R272). -/
def State.resetDue (s : State) (a : FrameAxis) : Bool := a.draining && a.tokens = [] && s.effectsDone a && !a.owner.any s.away

/-- FRAME_AXIS_RESET (R272): no window, no positions, and HZN 0. -/
def execFrameAxisReset (ax : BitVec 14) (s : State) : Result :=
  let a := s.axisOf ax
  .next (if s.resetDue a then
      s.putAxis { a with window := 0, retired := none, frames := [], hzn := 0, draining := false }
    else s)

/-! ### The host's descriptor writes (R294) -/

/-- Writes to words 0 to 2 are taken: no bound thread and no unretired token; descriptors 0 to 63 take none. -/
def State.descriptorOpen (s : State) (a : FrameAxis) : Bool :=
  64 ≤ a.num.toNat && a.tokens = [] && (match a.owner with
    | some p => s.boundTo p a.num.toNat = []
    | none => true)

/-- AXIS_DESCRIPTOR_WORD0_WRITE (R294): allotment, ring size and partition; the tail count restarts. -/
def execAxisDescriptorWord0Write (ax : BitVec 14) (v : Word) (s : State) : Result :=
  let a := s.axisOf ax
  .next (if s.descriptorOpen a then
      s.putAxis { a with word0 := field v 63 63 ||| field v 20 16 ||| field v 5 0, published := 0 }
    else s)

/-- AXIS_TOKEN_RING_HEAD (R280, R294): entries that the host has consumed. -/
def execAxisTokenRingHead (ax : BitVec 14) (v : Word) (s : State) : Result :=
  let a := s.axisOf ax
  .next (if 64 ≤ ax.toNat then s.putAxis { a with head := v } else s)

end Sys2Proof.Machine
end

