-- ==== Sys2Proof/Machine/Control.lean ====
section
/-! DEFINITION. Control flow: the branches (20 R323, 01 R8), JAL and JALR (21 R343, R344, 08 R127) and RPT (01 R11, 08 R136,
22 R369). -/
namespace Sys2Proof.Machine

/-- A conditional branch (R323): pc + 4 sx(off15) when the condition holds, else pc + 4. -/
def branch (i : Instr) (a b : Reg) (o : BitVec 15) (c : Word → Word → Bool) (s : State) : Result :=
  simple i s (wRegs [a, b]) fun s =>
    if c (s.rd a) (s.rd b) then s.jump (s.th.pc + sx o <<< 2) else s.advance

/-- BEQ (R323): taken when w[a] = w[b]. -/
def execBeq (a b : Reg) (o : BitVec 15) (s : State) : Result := branch (.beq a b o) a b o (· == ·) s
/-- BNE (R323): taken when w[a] differs from w[b]. -/
def execBne (a b : Reg) (o : BitVec 15) (s : State) : Result := branch (.bne a b o) a b o (· != ·) s
/-- BLT (R323): taken when w[a] < w[b], signed. -/
def execBlt (a b : Reg) (o : BitVec 15) (s : State) : Result := branch (.blt a b o) a b o (·.slt ·) s
/-- BGE (R323): taken when w[a] ≥ w[b], signed. -/
def execBge (a b : Reg) (o : BitVec 15) (s : State) : Result := branch (.bge a b o) a b o (fun x y => !x.slt y) s
/-- BLTU (R323): taken when w[a] < w[b], unsigned. -/
def execBltu (a b : Reg) (o : BitVec 15) (s : State) : Result := branch (.bltu a b o) a b o (·.ult ·) s
/-- BGEU (R323): taken when w[a] ≥ w[b], unsigned. -/
def execBgeu (a b : Reg) (o : BitVec 15) (s : State) : Result := branch (.bgeu a b o) a b o (fun x y => !x.ult y) s
/-- BANY (R323): taken when the registers have a set bit in common. -/
def execBany (a b : Reg) (o : BitVec 15) (s : State) : Result := branch (.bany a b o) a b o (fun x y => x &&& y != 0) s
/-- BNONE (R323): taken when they have none. -/
def execBnone (a b : Reg) (o : BitVec 15) (s : State) : Result := branch (.bnone a b o) a b o (fun x y => x &&& y == 0) s

/-- JAL (R343): w[d] := pc + 4; pc := pc + 4 sx(off22). -/
def execJal (d : Reg) (o : BitVec 22) (s : State) : Result :=
  simple (.jal d o) s (wRegs [d]) fun s => (s.wr d (s.th.pc + 4)).jump (s.th.pc + sx o <<< 2)

/-- JALR (R344): t := w[a] + 4 sx(imm18); the misaligned trap with TVAL t and no link when bits 1:0 of t are not zero (R127);
else w[d] := pc + 4 and pc := t. -/
def execJalr (d a : Reg) (i : BitVec 18) (s : State) : Result :=
  issue (.jalr d a i) s none (wRegs [d, a]) fun s =>
    let t := s.rd a + sx i <<< 2
    if bits t 1 0 ≠ 0 then .trap (causeOf 0x04 t) else .done ((s.wr d (s.th.pc + 4)).jump t)

/-- JALR in a gang's follower (R344; 04_threads.md R61): the link is written and the target `t` is the leader's. -/
def followJalr (d a : Reg) (i : BitVec 18) (t : Word) (s : State) : Result :=
  issue (.jalr d a i) s none (wRegs [d, a]) fun s => .done ((s.wr d (s.th.pc + 4)).jump t)

/-- An instruction is allowed in a repeat frame (R133, R136). -/
def frameAllows : Instr → Bool
  | .add .. | .sub .. | .and .. | .or .. | .xor .. | .shl .. | .shr .. | .sra .. | .slt .. | .sltu .. | .min .. | .max ..
  | .sel .. | .clz .. | .ctz .. | .popc .. | .addi .. | .andi .. | .ori .. | .xori .. | .slti .. | .shli .. | .shri ..
  | .srai .. | .lui .. | .luih .. | .vadd .. | .vsub .. | .vmul .. | .vfma .. | .vmin .. | .vmax .. | .vand .. | .vor ..
  | .vxor .. | .vshl .. | .vshr .. | .vcmp .. | .vsel .. | .mand .. | .mor .. | .mnot .. | .mfirst .. | .vexp2 ..
  | .vlog2 .. | .vrcp .. | .vrsq .. | .vbfly .. => true
  | _ => false

/-- The `n` words from `pc` on, fetched, or the cause of the first that cannot be read. -/
def capture (s : State) (pc : Word) : Nat → Except Cause (List Half)
  | 0 => .ok []
  | n + 1 =>
    match (s.mapTh fun t => { t with pc := pc }).fetch with
    | .error c => .error c
    | .ok w =>
      match capture s (pc + 4) n with
      | .error c => .error c
      | .ok ws => .ok (w :: ws)

/-- The repeat-frame trap of the first of the words from `pc` on, the `k`-th of the frame, that R136 does not allow. -/
def frameCause (pc : Word) : Nat → List Half → Option Cause
  | _, [] => none
  | k, w :: ws =>
    if (decode w).toOption.any frameAllows then frameCause (pc + 4) (k + 1) ws else some ⟨0x12, BitVec.ofNat 8 k, pc⟩

/-- RPTST as RPT writes it (R59). -/
def rptWord (n : BitVec 8) (l d a b : Reg) : Word :=
  BitVec.ofNat 64 (2 ^ 63 + n.toNat * 2 ^ 24 + l.toNat * 2 ^ 16 + d.toNat * 2 ^ 12 + a.toNat * 2 ^ 8 + b.toNat * 2 ^ 4)

/-- RPT (R11, R59, R136): captures the len words that follow, checks them in ascending order, and starts the frame at pass 0,
position 0. The fetch faults of all the words come before the repeat-frame trap (R141), and both are taken at the RPT. -/
def execRpt (n : BitVec 8) (l d a b : Reg) (s : State) : Result :=
  match capture s (s.th.pc + 4) (l.toNat + 1) with
  | .error c => .next (s.takeTrap c)
  | .ok ws =>
    issue (.rpt n l d a b) s (frameCause (s.th.pc + 4) 0 ws) [] fun s =>
      .done (s.advance.mapTh fun t => { t with
        trap := { t.trap with rptst := rptWord n l d a b }
        pipe := { t.pipe with inFrame := true, frame := ws } })

end Sys2Proof.Machine
end

