-- ==== Sys2Proof/Machine/Vector.lean ====
section
/-! DEFINITION. The vector engine (09_matrix_vector.md R156 to R158): the charge of an issue (04_threads.md R65, R66), the queue,
what each queued instruction does to its thread's registers (23 R384 to R395; 21 R353, R357; 13 R214 to R218; 14 R221 to R229;
07 R122 to R124), the vector memory group (R393), and the engine's start of the next one. -/
namespace Sys2Proof.Machine

/-! ### What a queued instruction writes -/

/-- v[d] with the enabled lanes of type `e` written. -/
def Thread.lanesOut (t : Thread) (e d : Reg) (m : BitVec 2) (f : Nat → Nat) : Thread :=
  t.wrv d (writeLanes (laneWidth e) (t.rdm m) f (laneCount e) (t.rdv d))

/-- Lane-wise arithmetic on x, y and the old z (R384). -/
def Thread.lanes3 (t : Thread) (d a b : Reg) (m : BitVec 2) (e : Reg) (f : Elem → Nat → Nat → Nat → Nat) : Thread :=
  let w := laneWidth e
  t.lanesOut e d m fun i => f (elemOf e) (lane w (t.rdv a) i) (lane w (t.rdv b) i) (lane w (t.rdv d) i)

/-- Lane-wise functions of one operand. -/
def Thread.lanes1 (t : Thread) (d a : Reg) (m : BitVec 2) (e : Reg) (f : Nat → Nat) : Thread :=
  t.lanesOut e d m fun i => f (lane (laneWidth e) (t.rdv a) i)

/-- VCMP (R387). -/
def Thread.vcmp (t : Thread) (d a b : Reg) (c : BitVec 3) (m : BitVec 2) (e : Reg) : Thread :=
  let w := laneWidth e
  let n := laneCount e
  let d : BitVec 2 := d.extractLsb' 0 2
  let bitsOut := (List.range n).foldl (fun x i =>
    if bit (t.rdm m) i then setBit x i ((elemOf e).cmp c (lane w (t.rdv a) i) (lane w (t.rdv b) i)) else x) (t.rdm d)
  t.wrm d (BitVec.ofNat 64 (bitsOut.toNat % 2 ^ n))

/-- The step of VRED's operation (R394). -/
def redStep (o : Reg) (k : Elem) (r : RMode) (x y : Nat) : Nat :=
  match o.toNat with
  | 0 => k.add r x y
  | 1 => k.max x y
  | _ => k.min x y

/-- VRED (R394): ascending order over the enabled lanes. -/
def Thread.vred (t : Thread) (d a o : Reg) (m : BitVec 2) (e : Reg) (r : BitVec 2) : Thread :=
  let w := laneWidth e
  let k := elemOf e
  match (enabledLanes (t.rdm m) (laneCount e)).map (lane w (t.rdv a)) with
  | [] => t.setSt tVDIRTY true
  | x :: xs =>
    let v := xs.foldl (redStep o k r) (k.canon x)
    t.lanesOut e d m fun _ => v

/-- VPERM (R385). -/
def Thread.vperm (t : Thread) (d a b : Reg) (m : BitVec 2) (e : Reg) : Thread :=
  let w := laneWidth e
  t.lanesOut e d m fun i => lane w (t.rdv a) (lane w (t.rdv b) i % laneCount e) % 2 ^ (elemOf e).bits

/-- VCVT (R388): the lanes both types have. -/
def Thread.vcvt (t : Thread) (d a st : Reg) (m : BitVec 2) (e : Reg) (r : BitVec 2) : Thread :=
  t.wrv d (writeLanes (laneWidth e) (t.rdm m)
    (fun i => convert (elemOf st) (elemOf e) r (lane (laneWidth st) (t.rdv a) i))
    (Nat.min (laneCount e) (laneCount st)) (t.rdv d))

/-- VQNT (R382, R390), with scale code `c`. -/
def Thread.vqnt (t : Thread) (d a : Reg) (m : BitVec 2) (f : Reg) (c : Nat) : Thread :=
  let k := fmtElem f
  t.wrv d (writeLanes k.bits (t.rdm m) (fun i => k.encode rneMode c (fF32.value (lane 32 (t.rdv a) i))) 16 (t.rdv d))

/-- The value of a quantised element under a scale code (R382). -/
def dequantised (k : Elem) (c x : Nat) : FVal := if c = 255 then .nan else (k.value x).scaleDown (127 - c)

/-- VDQNT (R382, R391). -/
def Thread.vdqnt (t : Thread) (d a : Reg) (m : BitVec 2) (f : Reg) (r : BitVec 2) (c : Nat) : Thread :=
  let k := fmtElem f
  t.wrv d (writeLanes 32 (t.rdm m) (fun i => fF32.round r (dequantised k c (lane k.bits (t.rdv a) i))) 16 (t.rdv d))

/-- rne(p·q + s·u, binary32): two exact products, summed exactly (R123). -/
def twoProducts (p q s u : FVal) : FVal := fF32.value (fF32.round rneMode (FVal.add rneMode (p.mul q) (s.mul u)))

/-- VBFLY (R123): X from d, Y from a, W from b; both d and a are written. -/
def Thread.vbfly (t : Thread) (d a b : Reg) (m : BitVec 2) : Thread :=
  let x (i : Nat) : FVal := fF32.value (lane 32 (t.rdv d) i)
  let y (i : Nat) : FVal := fF32.value (lane 32 (t.rdv a) i)
  let w (i : Nat) : FVal := fF32.value (lane 32 (t.rdv b) i)
  let p (i : Nat) : FVal :=
    let j := i / 2 * 2
    if i % 2 = 0 then twoProducts (w j) (y j) (w (j + 1)).neg (y (j + 1)) else twoProducts (w j) (y (j + 1)) (w (j + 1)) (y j)
  let mk := t.rdm m
  let t1 := t.wrv d (writeLanes 32 mk (fun i => fF32.round rneMode (FVal.add rneMode (x i) (p i))) 16 (t.rdv d))
  t1.wrv a (writeLanes 32 mk (fun i => fF32.round rneMode (FVal.add rneMode (x i) (p i).neg)) 16 (t.rdv a))

/-- VTWID (R124) from the scalars it read. -/
def Thread.vtwid (t : Thread) (d : Reg) (m : BitVec 2) (x n : Word) : Thread :=
  let l := bits n 5 0
  t.wrv d (writeLanes 32 (t.rdm m) (fun i =>
    let cs := cosSin ((x.toNat + i / 2) % 2 ^ l) l
    fF32.round rneMode (if i % 2 = 0 then cs.1 else cs.2.neg).plusZero) 16 (t.rdv d))

/-- One lane of VBOUND (R215). -/
def boundLane (f : FFmt) (r : RMode) (x lo hi : Nat) : Nat :=
  let p := (f.value x).mul (f.value hi)
  let q := (f.value x).mul (f.value lo)
  if p = .nan || q = .nan then f.infCode else f.round r (if p.takeMax q then p else q)

/-- An IEEE type by its et code, 5 to 8. -/
def ieeeOf (e : Reg) : FFmt :=
  match e.toNat with
  | 5 => fF16
  | 6 => fBF16
  | 7 => fF32
  | _ => fF64

/-- VBOUND (R215): v[b] and v[b + 1] are the interval. -/
def Thread.vbound (t : Thread) (d a b : Reg) (m : BitVec 2) (e : Reg) (r : BitVec 2) : Thread :=
  let w := laneWidth e
  t.lanesOut e d m fun i => boundLane (ieeeOf e) r (lane w (t.rdv a) i) (lane w (t.rdv b) i) (lane w (t.rdv (b + 1)) i)

/-- The key of a value in VTOPK's order (R218), and the order: the first ranks higher. -/
def topKey (x : Nat) : FVal := if fF32.value x = .nan then .inf true else fF32.value x
def topBetter (x y : Nat × Nat) : Bool :=
  (topKey x.1).gtZ (topKey y.1) || (!(topKey y.1).gtZ (topKey x.1) && x.2 < y.2)

/-- A candidate inserted before the first worse entry. -/
def topInsert (c : Nat × Nat) : List (Nat × Nat) → List (Nat × Nat)
  | [] => [c]
  | x :: xs => if topBetter c x then c :: x :: xs else x :: topInsert c xs

/-- The lanes named written in order. -/
def putLanes (v : Vec) : List (Nat × Nat) → Vec
  | [] => v
  | (i, x) :: xs => putLanes (setLane 32 v i x) xs

/-- VTOPK (R218) with candidate index `j`. -/
def Thread.vtopk (t : Thread) (d a : Reg) (m : BitVec 2) (e : Reg) (j : Word) : Thread :=
  let ls := enabledLanes (t.rdm m) 16
  let c := fF32.round rneMode ((ieeeOf e).value (lane (laneWidth e) (t.rdv a) 0))
  let out := topInsert (c, bits j 31 0) (ls.map (fun l => (lane 32 (t.rdv d) l, lane 32 (t.rdv (d + 1)) l)))
  let t1 := t.wrv d (putLanes (t.rdv d) (ls.zip (out.map (·.1))))
  t1.wrv (d + 1) (putLanes (t.rdv (d + 1)) (ls.zip (out.map (·.2))))

/-- A round of the counter-based generator (R221). -/
def ccgRound (k0 k1 : Half) (i : Nat) (x : Half × Half × Half × Half) : Half × Half × Half × Half :=
  let (x0, x1, x2, x3) := x
  let x0 := x0 + k0 + BitVec.ofNat 32 i
  let x1 := x1 ^^^ k1
  let x0 := x0 + x1
  let x3 := rotl32 (x3 ^^^ x0) 16
  let x2 := x2 + x3
  let x1 := rotl32 (x1 ^^^ x2) 12
  let x0 := x0 + x1
  let x3 := rotl32 (x3 ^^^ x0) 8
  let x2 := x2 + x3
  let x1 := rotl32 (x1 ^^^ x2) 7
  (x0, x1, x2, x3)

/-- `out` of CCG (R221). -/
def ccg (seed : Word) (seq pos idx : Half) : Half :=
  let x := (List.range 6).foldl (fun x i => ccgRound (seed.extractLsb' 0 32) (seed.extractLsb' 32 32) i x) (pos, idx, seq, 0x9E3779B9)
  x.1 ^^^ x.2.2.1

/-- u of CCG as a binary32 code. -/
def ccgUniform (out : Half) : Nat := fF32.round rneMode (.fin false (2 * (out.toNat / 512) + 1) (-24))

/-- VRNG (R222). -/
def Thread.vrng (t : Thread) (d : Reg) (m : BitVec 2) (e : Reg) (seed at_ : Word) : Thread :=
  t.wrv d (writeLanes 32 (t.rdm m) (fun i =>
    let out := ccg seed (at_.extractLsb' 32 32) (at_.extractLsb' 0 32) (BitVec.ofNat 32 (lane 32 (t.rdv d) i))
    if e = 3 then out.toNat else ccgUniform out) 16 (t.rdv d))

/-- Gumbel noise by the four fixed steps (R223). -/
def gumbel (u : Nat) : Nat :=
  let r (x : FVal) : FVal := fF32.value (fF32.round rneMode x)
  let nl2 := fF32.value 0xBF317218
  let b := r ((r (fF32.value u).log2).mul nl2)
  fF32.round rneMode ((r b.log2).mul nl2)

/-- VGMASK (R229). -/
def Thread.vgmask (t : Thread) (d : Reg) (m : BitVec 2) (e : Reg) (allowed : Word) : Thread :=
  let f := ieeeOf e
  let w := laneWidth e
  t.lanesOut e d m fun i => if bit allowed i then lane w (t.rdv d) i else 2 ^ (f.eb + f.mb) + f.infCode

/-- A special function of f32 lanes (R122, R392). -/
def Thread.special (t : Thread) (d a : Reg) (m r : BitVec 2) (f : FVal → FVal) : Thread :=
  t.lanes1 d a m 7 fun x => fF32.round r (f (fF32.value x))

/-- A mask register field. -/
def mreg (r : Reg) : BitVec 2 := r.extractLsb' 0 2

/-- The registers after a queued instruction, with the scalars that it read at issue. -/
def Thread.vector (t : Thread) (i : Instr) (s0 s1 : Word) : Thread :=
  match i with
  | .vadd d a b m e r => t.lanes3 d a b m e fun k x y _ => k.add r x y
  | .vsub d a b m e r => t.lanes3 d a b m e fun k x y _ => k.sub r x y
  | .vmul d a b m e r => t.lanes3 d a b m e fun k x y _ => k.mul r x y
  | .vfma d a b m e r => t.lanes3 d a b m e fun k x y z => k.fma r x y z
  | .vmin d a b m e => t.lanes3 d a b m e fun k x y _ => k.min x y
  | .vmax d a b m e => t.lanes3 d a b m e fun k x y _ => k.max x y
  | .vand d a b m e => t.lanes3 d a b m e fun k x y _ => k.logic (· &&& ·) x y
  | .vor d a b m e => t.lanes3 d a b m e fun k x y _ => k.logic (· ||| ·) x y
  | .vxor d a b m e => t.lanes3 d a b m e fun k x y _ => k.logic (· ^^^ ·) x y
  | .vshl d a b m e => t.lanes3 d a b m e fun k x y _ => k.shl x y
  | .vshr d a b m e => t.lanes3 d a b m e fun k x y _ => k.shr x y
  | .vcmp d a b c m e => t.vcmp d a b c m e
  | .vsel d a m e => t.lanes1 d a m e fun x => x % 2 ^ (elemOf e).bits
  | .mand d a b => t.wrm (mreg d) (t.rdm (mreg a) &&& t.rdm (mreg b))
  | .mor d a b => t.wrm (mreg d) (t.rdm (mreg a) ||| t.rdm (mreg b))
  | .mnot d a => t.wrm (mreg d) (~~~ t.rdm (mreg a))
  | .vred d a o m e r => t.vred d a o m e r
  | .vperm d a b m e => t.vperm d a b m e
  | .vbcast d _ m e => t.lanesOut e d m fun _ => s0.toNat % 2 ^ (elemOf e).bits
  | .viota d _ m e => t.lanesOut e d m fun i => (s0.toNat + i) % 2 ^ laneWidth e
  | .vexp2 d a m r => t.special d a m r FVal.exp2
  | .vlog2 d a m r => t.special d a m r FVal.log2
  | .vrcp d a m r => t.special d a m r FVal.rcp
  | .vrsq d a m r => t.special d a m r FVal.rsqrt
  | .vcvt d a st m e r => t.vcvt d a st m e r
  | .vqnt d a _ m f => t.vqnt d a m f (bits s1 7 0)
  | .vdqnt d a _ m f r => t.vdqnt d a m f r (bits s1 7 0)
  | .vbfly d a b m => t.vbfly d a b m
  | .vtwid d _ _ m => t.vtwid d m s0 s1
  | .vbound d a b m e r => t.vbound d a b m e r
  | .vtopk d a _ m e => t.vtopk d a m e s1
  | .vgumb d a m => t.lanes1 d a m 7 gumbel
  | .vrng d _ _ m e => t.vrng d m e s0 s1
  | .vgmask d _ m e => t.vgmask d m e s0
  | _ => t

/-! ### Issue -/

/-- Entries that the two-entry queue holds (R156). -/
def Core.vectorFull (c : Core) : Bool := 2 ≤ c.vq.length

/-- A charged instruction, once the queue has room; one that its slot cannot pay for waits for the next refill (R66). -/
def charged (i : Instr) (s : State) (f : State → Effort) : Effort :=
  let u := (s.th.charge i).getD 0
  if s.core.vectorFull then .parked (s.parkOn (.engineQueue 0))
  else if s.th.affords u then f (s.mapTh (·.charged u))
  else .parked ((s.mapTh Thread.starve).parkOn .budget)

/-- A vector instruction is queued with the scalars it reads, and its thread goes on; with `dirty` VDIRTY is set (R156, R157). -/
def queueVector (i : Instr) (regs : List (BitVec 5)) (sa sb : Reg) (dirty : Bool) (s : State) : Result :=
  issue i s none regs fun s =>
    charged i s fun s =>
      let s1 := s.mapCore fun c => { c with vq := c.vq ++ [⟨s.th.tid, i, s.rd sa, s.rd sb⟩] }
      .done (if dirty then s1.mapTh (·.setSt tVDIRTY true) else s1).advance

/-- A queued instruction of three vector operands under a mask, and of two. -/
def vector3 (i : Instr) (d a b : Reg) (s : State) : Result := queueVector i (vRegs [d, a, b]) 0 0 true s
def vector2 (i : Instr) (d a : Reg) (s : State) : Result := queueVector i (vRegs [d, a]) 0 0 true s

/-- VADD (R384): x + y. -/
def execVadd (d a b : Reg) (m : BitVec 2) (e : Reg) (r : BitVec 2) (s : State) : Result :=
  vector3 (.vadd d a b m e r) d a b s
/-- VSUB (R384): x - y. -/
def execVsub (d a b : Reg) (m : BitVec 2) (e : Reg) (r : BitVec 2) (s : State) : Result :=
  vector3 (.vsub d a b m e r) d a b s
/-- VMUL (R384): x · y. -/
def execVmul (d a b : Reg) (m : BitVec 2) (e : Reg) (r : BitVec 2) (s : State) : Result :=
  vector3 (.vmul d a b m e r) d a b s
/-- VFMA (R384): x · y + z, rounded once. -/
def execVfma (d a b : Reg) (m : BitVec 2) (e : Reg) (r : BitVec 2) (s : State) : Result :=
  vector3 (.vfma d a b m e r) d a b s
/-- VMIN (R384): the smaller. -/
def execVmin (d a b : Reg) (m : BitVec 2) (e : Reg) (s : State) : Result :=
  vector3 (.vmin d a b m e) d a b s
/-- VMAX (R384): the larger. -/
def execVmax (d a b : Reg) (m : BitVec 2) (e : Reg) (s : State) : Result :=
  vector3 (.vmax d a b m e) d a b s
/-- VAND (R384). -/
def execVand (d a b : Reg) (m : BitVec 2) (e : Reg) (s : State) : Result :=
  vector3 (.vand d a b m e) d a b s
/-- VOR (R384). -/
def execVor (d a b : Reg) (m : BitVec 2) (e : Reg) (s : State) : Result := vector3 (.vor d a b m e) d a b s
/-- VXOR (R384). -/
def execVxor (d a b : Reg) (m : BitVec 2) (e : Reg) (s : State) : Result :=
  vector3 (.vxor d a b m e) d a b s
/-- VSHL (R384): shifted left by y modulo the width. -/
def execVshl (d a b : Reg) (m : BitVec 2) (e : Reg) (s : State) : Result :=
  vector3 (.vshl d a b m e) d a b s
/-- VSHR (R384): shifted right, arithmetic on signed types. -/
def execVshr (d a b : Reg) (m : BitVec 2) (e : Reg) (s : State) : Result :=
  vector3 (.vshr d a b m e) d a b s
/-- VCMP (R387): the comparison's bits into m[d]. -/
def execVcmp (d a b : Reg) (c : BitVec 3) (m : BitVec 2) (e : Reg) (s : State) : Result :=
  queueVector (.vcmp d a b c m e) (vRegs [a, b]) 0 0 (d ≠ 0) s
/-- VSEL (R395): enabled lanes of v[a] into v[d]. -/
def execVsel (d a : Reg) (m : BitVec 2) (e : Reg) (s : State) : Result := vector2 (.vsel d a m e) d a s
/-- MAND (R353). -/
def execMand (d a b : Reg) (s : State) : Result := queueVector (.mand d a b) [] 0 0 (d ≠ 0) s
/-- MOR (R353). -/
def execMor (d a b : Reg) (s : State) : Result := queueVector (.mor d a b) [] 0 0 (d ≠ 0) s
/-- MNOT (R353). -/
def execMnot (d a : Reg) (s : State) : Result := queueVector (.mnot d a) [] 0 0 (d ≠ 0) s
/-- VRED (R394): the enabled lanes reduced in ascending order. -/
def execVred (d a o : Reg) (m : BitVec 2) (e : Reg) (r : BitVec 2) (s : State) : Result :=
  vector2 (.vred d a o m e r) d a s
/-- VPERM (R385): lanes of v[a] by the indices in v[b]. -/
def execVperm (d a b : Reg) (m : BitVec 2) (e : Reg) (s : State) : Result :=
  vector3 (.vperm d a b m e) d a b s
/-- VBCAST (R385): the low bits of w[a] into every enabled lane. -/
def execVbcast (d a : Reg) (m : BitVec 2) (e : Reg) (s : State) : Result :=
  queueVector (.vbcast d a m e) (vRegs [d] ++ wRegs [a]) a 0 true s
/-- VIOTA (R385): w[a] plus the lane number. -/
def execViota (d a : Reg) (m : BitVec 2) (e : Reg) (s : State) : Result :=
  queueVector (.viota d a m e) (vRegs [d] ++ wRegs [a]) a 0 true s
/-- VEXP2 (R392, R122). -/
def execVexp2 (d a : Reg) (m r : BitVec 2) (s : State) : Result := vector2 (.vexp2 d a m r) d a s
/-- VLOG2 (R392, R122). -/
def execVlog2 (d a : Reg) (m r : BitVec 2) (s : State) : Result := vector2 (.vlog2 d a m r) d a s
/-- VRCP (R392, R122). -/
def execVrcp (d a : Reg) (m r : BitVec 2) (s : State) : Result := vector2 (.vrcp d a m r) d a s
/-- VRSQ (R392, R122). -/
def execVrsq (d a : Reg) (m r : BitVec 2) (s : State) : Result := vector2 (.vrsq d a m r) d a s
/-- VCVT (R388): lanes converted from type st. -/
def execVcvt (d a st : Reg) (m : BitVec 2) (e : Reg) (r : BitVec 2) (s : State) : Result :=
  vector2 (.vcvt d a st m e r) d a s
/-- VQNT (R390): 16 f32 lanes into a packed group. -/
def execVqnt (d a b : Reg) (m : BitVec 2) (f : Reg) (s : State) : Result :=
  queueVector (.vqnt d a b m f) (vRegs [d, a] ++ wRegs [b]) 0 b true s
/-- VDQNT (R391): a packed group into 16 f32 lanes. -/
def execVdqnt (d a b : Reg) (m : BitVec 2) (f : Reg) (r : BitVec 2) (s : State) : Result :=
  queueVector (.vdqnt d a b m f r) (vRegs [d, a] ++ wRegs [b]) 0 b true s
/-- VBFLY (R123, R386): eight complex butterflies. -/
def execVbfly (d a b : Reg) (m : BitVec 2) (s : State) : Result := vector3 (.vbfly d a b m) d a b s
/-- VTWID (R124, R386): eight twiddle factors. -/
def execVtwid (d a b : Reg) (m : BitVec 2) (s : State) : Result :=
  queueVector (.vtwid d a b m) (vRegs [d] ++ wRegs [a, b]) a b true s
/-- VBOUND (R214, R215): the bound of each lane over the interval in v[b] and v[b + 1]. -/
def execVbound (d a b : Reg) (m : BitVec 2) (e : Reg) (r : BitVec 2) (s : State) : Result :=
  queueVector (.vbound d a b m e r) (vRegs [d, a, b, b + 1]) 0 0 true s
/-- VTOPK (R217, R218): the candidate inserted into the list. -/
def execVtopk (d a b : Reg) (m : BitVec 2) (e : Reg) (s : State) : Result :=
  queueVector (.vtopk d a b m e) (vRegs [d, d + 1, a] ++ wRegs [b]) 0 b true s
/-- VGUMB (R223): Gumbel noise from uniform variates. -/
def execVgumb (d a : Reg) (m : BitVec 2) (s : State) : Result := vector2 (.vgumb d a m) d a s
/-- VRNG (R222): draws in the place of draw indices. -/
def execVrng (d a b : Reg) (m : BitVec 2) (e : Reg) (s : State) : Result :=
  queueVector (.vrng d a b m e) (vRegs [d] ++ wRegs [a, b]) a b true s
/-- VGMASK (R229): minus infinity where w[a] has a clear bit. -/
def execVgmask (d a : Reg) (m : BitVec 2) (e : Reg) (s : State) : Result :=
  queueVector (.vgmask d a m e) (vRegs [d] ++ wRegs [a]) a 0 true s

/-! ### Instructions that wait for the engine: scalar destinations and vector memory -/

/-- Every vector instruction of the thread has been completed (R156). -/
def State.vectorDone (s : State) : Bool := !s.core.vq.any (fun x => x.owner == s.th.tid)

/-- The effect of an instruction that waits for its thread's earlier vector instructions and is charged 4 units (R65, R393). -/
def afterVector (i : Instr) (s : State) (f : State → Effort) : Effort :=
  if !s.vectorDone then .parked (s.parkOn .issue) else charged i s f

/-- The lowest set bit of `x` at or above `j`, over `n` bits, or 64. -/
def firstFrom (x : Word) (j : Nat) : Nat → Nat
  | 0 => 64
  | n + 1 => if 64 ≤ j then 64 else if bit x j then j else firstFrom x (j + 1) n

/-- MFIRST (R357): the lowest set bit of m[a] at or above w[b], or 64. -/
def execMfirst (d a b : Reg) (s : State) : Result :=
  issue (.mfirst d a b) s none (wRegs [d, b]) fun s =>
    afterVector (.mfirst d a b) s fun s => .done (s.wr d (BitVec.ofNat 64 (firstFrom (s.rdm (mreg a)) (bits (s.rd b) 6 0) 64))).advance

/-- VMOVS (R385): one lane of v[a] into w[d]. -/
def execVmovs (d a b e : Reg) (s : State) : Result :=
  issue (.vmovs d a b e) s none (wRegs [d, b] ++ vRegs [a]) fun s =>
    afterVector (.vmovs d a b e) s fun s =>
      .done (s.wr d ((elemOf e).extend (lane (laneWidth e) (s.rdv a) ((s.rd b).toNat % laneCount e)))).advance

/-- base := w[a] + 64 sx(imm6) (R393). -/
def vecBase (s : State) (a : Reg) (imm : BitVec 6) : Word := s.rd a + sx imm * 64

/-- Places of the elements at the addresses, in ascending lane order; special words are invalid (R393). -/
def placesOf (s : State) (ac : Access) (n : Nat) : List Word → Except Cause (List (Word × Place))
  | [] => .ok []
  | a :: as =>
    match resolve s s.th.agent ac n a with
    | .error c => .error c
    | .ok pl =>
      if pl.special ≠ .none then .error (causeOf 0x05 a)
      else
        match placesOf s ac n as with
        | .error c => .error c
        | .ok ps => .ok ((a, pl) :: ps)

/-- The first element with an uncorrectable error. -/
def firstError (s : State) (n : Nat) : List (Word × Place) → Option Word
  | [] => none
  | (a, pl) :: ps => if (s.poisonIn pl.key n).isSome then some a else firstError s n ps

/-- The elements of some places, the first lowest; those that wait are left zero. -/
def gatherBytes (s : State) (n : Nat) (waits : Word × Place → Bool) : List (Word × Place) → Nat
  | [] => 0
  | p :: ps => (if waits p then 0 else s.bytesAt p.2 n) + 2 ^ (8 * n) * gatherBytes s n waits ps

/-- A vector read at some places; one that comes in part from outside the core is a reply: its low word, and the bytes in continuation
records (10_traps.md R174; log entry 22). -/
def State.replyVector (s : State) (ps : List (Word × Place)) (x : Vec) : Vec × State :=
  if ps.all (fun p => p.2.space = .loc s.th.cid) then (x, s)
  else
    let (ws, s1) := s.incomingWords s.th.cid s.th.slot 2 ((ps.head?.map fun p => sourceAt p.2.key).getD allOnes) ((List.range 8).map fun i => x.extractLsb' (64 * i) 64)
    (BitVec.ofNat 512 (ws.foldr (fun w acc => w.toNat + 2 ^ 64 * acc) 0), s1)

/-- The source that a log names for a vector read that comes in part from outside the core. -/
def State.vectorSource (s : State) (ps : List (Word × Place)) : Option Word :=
  if ps.all (fun p => p.2.space = .loc s.th.cid) then none else ps.head?.map fun p => sourceAt p.2.key

/-- The reads of a vector load of elements of `n` bytes: its value, or where another thread holds words of it the load with these reads waiting at
their memories in order (R393; 03_addresses.md R49), or its error, the lowest word's of a single element and else the lowest element's. In replay
nothing waits (log entry 22). -/
def State.readLanes (s : State) (i : Instr) (d : Reg) (n : Nat) (seq : Word) (ps : List (Word × Place)) : Except Cause (PendState × State) :=
  let waits (p : Word × Place) : Bool := !s.replays s.th.cid && (s.heldByOther (some s.th.tid) p.2.key n).isSome
  let now := ps.filter (!waits ·)
  let err := if n = 64 then (now.head?.bind fun p => dataError s p.2 p.1 n).map (·.tval) else firstError s n now
  match err with
  | some a => .error (causeOf 0x0A a)
  | none =>
    let x : Vec := BitVec.ofNat 512 (gatherBytes s n waits ps)
    if now.length = ps.length then
      let (y, s1) := s.replyVector ps x
      .ok (.value y, s1)
    else
      let ws := (ps.mapIdx fun k p => (k, p)).filter (waits ·.2)
      .ok (.vector i (Vector.ofFn fun k => (ps.map (·.1)).getD k.val 0) x ws.length (s.vectorSource ps),
        ws.foldl (fun s w => s.enlist ⟨some s.th.tid, w.2.2, n, w.2.1, .lane (8 * n * w.1), 0, d, none, none, seq⟩) s)

/-- A vector load of elements of `n` bytes at the addresses: a plain access whose v[d] stays pending under la (R393). -/
def vectorLoad (i : Instr) (d la : Reg) (n : Nat) (addrs : List Word) (s : State) : Effort :=
  match addrs.findSome? (fun a => s.reportAt a true) with
  | some c => .trap c
  | none =>
    match placesOf s .read n addrs with
    | .error c => .trap c
    | .ok ps =>
      if ps.any (fun p => s.accessWaits false p.2.key n || s.stalled p.1 n false) then .parked (s.parkOn .issue)
      else
        charged i s fun s =>
          match s.readLanes i d n s.th.ident.icnt ps with
          | .error c => .trap c
          | .ok (.value x, s1) => .done (s1.mapTh fun t => (t.setSt tVDIRTY true).result (vReg d) la t.pc x).advance
          | .ok (st, s1) => .done ((s1.mapTh (·.setSt tVDIRTY true)).enterReg (vReg d) la st).advance

/-- VLD (R393): the 64 bytes at base. -/
def execVld (d a : Reg) (imm : BitVec 6) (l : Reg) (s : State) : Result :=
  issue (.vld d a imm l) s none (vRegs [d] ++ wRegs [a]) fun s =>
    if !s.vectorDone then .parked (s.parkOn .issue) else vectorLoad (.vld d a imm l) d l 64 [vecBase s a imm] s

/-- VLDS (R393): sixteen halves at the stride w[b]. -/
def execVlds (d a b : Reg) (imm : BitVec 6) (l : Reg) (s : State) : Result :=
  issue (.vlds d a b imm l) s none (vRegs [d] ++ wRegs [a, b]) fun s =>
    if !s.vectorDone then .parked (s.parkOn .issue)
    else vectorLoad (.vlds d a b imm l) d l 4 ((List.range 16).map (fun j => vecBase s a imm + BitVec.ofNat 64 j * s.rd b)) s

/-- VGAT (R393): sixteen halves at the offsets in v[b]. -/
def execVgat (d a b : Reg) (imm : BitVec 6) (l : Reg) (s : State) : Result :=
  issue (.vgat d a b imm l) s none (vRegs [d, b] ++ wRegs [a]) fun s =>
    if !s.vectorDone then .parked (s.parkOn .issue)
    else vectorLoad (.vgat d a b imm l) d l 4 ((List.range 16).map (fun j => vecBase s a imm + BitVec.ofNat 64 (lane 32 (s.rdv b) j))) s

/-- Eight old-value records reserved for the words from `addr` on; the first one's offset (R246). -/
def State.reserveEight (s : State) (addr : Word) : Nat × State :=
  (s.th.rw.top, (List.range 8).foldl (fun s i => (s.reserveOld (addr + BitVec.ofNat 64 (8 * i)) false).2) s)

/-- VST (R393): v[d] to the 64 bytes at base. -/
def vstBody (i : Instr) (d : Reg) (addr : Word) (s : State) : Effort :=
  match s.reportAt addr true with
  | some c => .trap c
  | none =>
    match placesOf s .store 64 [addr] with
    | .error c => .trap c
    | .ok ps =>
      match ps with
      | [] => .done s
      | (_, pl) :: _ =>
        let log := s.th.logs && pl.space ≠ .host
        if s.accessWaits false pl.key 64 || s.stalled addr 64 true then .parked (s.parkOn .issue)
        else if log && s.th.rw.free < 8 then .parked (s.parkOn (.stack 8))
        else
          charged i s fun s =>
            let (rec, s1) := if log then let (r, s1) := s.reserveEight (s.absAddr addr); (some r, s1) else (none, s)
            let w := storeWaiter s1 pl addr 64 (.store 6 3) (s.rdv d) 0 rec
            .done (((s1.notePosted pl addr 64).request w).plainStored).advance

/-- VST (R393). -/
def execVst (d a : Reg) (imm : BitVec 6) (s : State) : Result :=
  issue (.vst d a imm) s none (vRegs [d] ++ wRegs [a]) fun s =>
    if !s.vectorDone then .parked (s.parkOn .issue) else vstBody (.vst d a imm) d (vecBase s a imm) s

/-! ### The engine -/

/-- The head of core `c`'s queue is performed on its thread's registers; a slot that is out of budget stays so under its new masks
(04_threads.md R66). -/
def State.startVector (s : State) (c : Cid) : State :=
  match (s.coreOf c).vq with
  | [] => s
  | x :: rest => ((s.keepStarved x.owner).updCore c fun y => { y with vq := rest }).updThread x.owner (·.vector x.instr x.s0 x.s1)

/-- VECTOR_ENGINE_START (R156): the engine takes the next instruction of core `c`'s queue. -/
def execVectorEngineStart (c : Cid) (s : State) : Result := .next (s.startVector c)

end Sys2Proof.Machine
end

