-- ==== Sys2Proof/Machine/System.lean ====
section
/-! DEFINITION. The system group (10_traps.md R161): ECALL, EBRK, TRET with the accesses that it issues again (22 R378;
04_threads.md R59, R71; 10_traps.md R166), WAITI (23 R396) and HALT (21 R341; 01_tutorial.md R7; 11_engines.md R187). -/
namespace Sys2Proof.Machine

/-- A trap that an instruction raises as its own effect, at its own address: it has issued in the windows of earlier results (R331). -/
def raise (c : Cause) (s : State) : Result := .next ((s.mapTh Thread.tick).takeTrap c)

/-- ECALL (R161, R331): trap 0x10 with TVAL the service number. -/
def execEcall (n : BitVec 12) (s : State) : Result := raise (causeOf 0x10 (zx n)) s

/-- EBRK (R161, R331): trap 0x11 with TVAL the tag, or a gang stop at it where the host has enabled break-to-debugger. -/
def execEbrk (n : BitVec 12) (s : State) : Result :=
  if s.part.brk then .next (s.gangStop s.part.num) else raise (causeOf 0x11 (zx n)) s

/-! ### Accesses issued again after TRET (R378) -/

/-- What issuing a held access again comes to: the state, or one in which the thread waits or parks for it. -/
abbrev Again := Except State State

/-- The access's destination pending again with what is left of its window, some of which has been issued; w0 is never pending (04_threads.md R57), but for an errand. -/
def State.pendReg (s : State) (h : HeldAccess) (r : BitVec 5) (st : PendState) : State :=
  if r = 0 && !st.errand then s
  else s.mapTh fun t => { t with pipe := { t.pipe with pend := t.pipe.pend ++ [⟨r, h.left, 1, h.pc, st, h.seq⟩] } }
def State.pendAgain (s : State) (h : HeldAccess) (d : Reg) (st : PendState) : State := s.pendReg h (wReg d) st

/-- It faults again with the cause `c` (R166). -/
def State.faultAgain (s : State) (h : HeldAccess) (c : Cause) : State :=
  let s1 := match h.reg with
    | some r => s.pendReg h r .faulted
    | none => s
  s1.mapTh (·.hold { h with isWait := false, phase := .live, code := c.code, detail := c.detail, tval := c.tval })

/-- Its value comes. -/
def State.valueAgain (s : State) (h : HeldAccess) (d : Reg) (x : Word) : State := s.pendAgain h d (.value (x.setWidth 512))

/-- The access to `n` bytes at the held address is checked again, and waits in issue as any access does; `f` goes on with it. -/
def again (ac : Access) (n : Nat) (relaxed store : Bool) (s : State) (h : HeldAccess) (f : Place → Again) : Again :=
  match resolve s s.th.agent ac n h.addr with
  | .error c => .ok (s.faultAgain h c)
  | .ok pl => if s.accessWaits relaxed pl.key n || s.stalled h.addr n store then .error (s.parkOn .issue) else f pl

/-- A load of `n` bytes. -/
def loadAgain (s : State) (h : HeldAccess) (sgn : Bool) (n : Nat) (d : Reg) : Again :=
  again (if h.plain then .load else .loadRx) n (!h.plain) false s h fun pl =>
    match (if pl.special = .none then dataError s pl h.addr n else none) with
    | some c => .ok (s.faultAgain h c)
    | none =>
      let (x, s1) := s.reply pl (extend sgn n (s.loadBytes pl n))
      .ok (s1.valueAgain h d x)

/-- A store of `n` bytes. -/
def storeAgain (s : State) (h : HeldAccess) (n : Nat) : Again :=
  again .store n (!h.plain) true s h fun pl =>
    let log := s.th.logs && pl.space ≠ .host
    if log && s.th.rw.free = 0 then .error (s.parkOn (.stack 1))
    else if n < 8 && (s.poisonIn pl.key n).isSome then .ok (s.faultAgain h (causeOf 0x0A h.addr))
    else
      let (rec, s1) := s.reserveFor log h.addr false
      let w := storeWaiter s1 pl h.addr n (.store (if h.plain then 0 else 1) (BitVec.ofNat 2 (sizeCode n))) (h.data.setWidth 512) 0 rec
      let s2 := (s1.notePosted pl h.addr n).request { w with seq := h.seq }
      .ok (if h.plain then s2.plainStored else s2)

/-- A FAR. -/
def farAgain (s : State) (h : HeldAccess) (op : BitVec 4) : Again :=
  again .store 8 true true s h fun pl =>
    .ok (s.request { storeWaiter s pl h.addr 8 (.far op) (h.data.setWidth 512) 0 none with seq := h.seq })

/-- An LDF, or an LDFE with `take`. -/
def fullAgain (s : State) (h : HeldAccess) (take : Bool) (d : Reg) : Again :=
  again (if take then .feBoth else .feRead) 8 false false s h fun pl =>
    if s.unheld pl.key && s.isFull pl.key && !s.deaf pl then
      match dataError s pl h.addr 8 with
      | some c => .ok (s.faultAgain h c)
      | none =>
        let (x, s1) := s.reply pl (s.wordAt pl)
        let s2 := s1.valueAgain h d x
        .ok (if take then s2.changeBit pl s.th.tid false else s2)
    else
      let w := storeWaiter s pl h.addr 8 (if take then .ldfe else .ldf) 0 d none
      .ok ((s.pendAgain h d (.full pl.key take)).enlist { w with seq := h.seq })

/-- A HOLD whose grant met an error. -/
def holdAgain (s : State) (h : HeldAccess) (d : Reg) : Again :=
  if s.th.holding.isSome then .error (s.parkOn .issue)
  else
    again .feBoth 8 false false s h fun pl =>
      let r : Reservation := ⟨.thread s.th.tid, d, pl.enc⟩
      let s1 := (s.reserving pl.key (s.absAddr h.addr)).pendAgain h d (.grant pl.key)
      if s.held.any (·.key = pl.key) then
        let enq (x : HeldWord) : HeldWord := { x with queue := x.queue ++ [r] }
        .ok { s1 with held := updBy (fun x => decide (x.key = pl.key)) enq s1.held }
      else .ok (s1.grantNext pl.key (some s.th.cid) [r])

/-- An instruction of the prefix-and-KV unit whose fault came late (10_traps.md R165): it runs again from its start. -/
def unitAgain (s : State) (h : HeldAccess) (d : Reg) : Again :=
  let holds := match h.instr with
    | .pfxins .. | .kvapp .. => true
    | _ => false
  if holds && s.th.holding.isSome then .error (s.parkOn .issue)
  else
    match (match h.instr with
      | .pfxins .. => pfxinsStep h.instr d h.addr h.data s
      | .pfxpin .. => pfxpinStep h.instr d h.addr h.data h.more s
      | .pfxunpin .. => pfxunpinStep h.instr d h.addr h.data s
      | _ => kvappStep h.instr d h.addr h.data h.more s) with
    | .parks s1 => .error s1
    | .traps s1 c => .ok (s1.faultAgain h c)
    | .answers s1 x =>
      let (y, s2) := s1.incoming 12 x
      .ok (s2.valueAgain h d y)
    | .ends s1 => .ok s1
    | .pends s1 u => .ok (s1.pendAgain h d (.unit u))

/-- A vector load of elements of `n` bytes, at the addresses of its first issue (23 R393). -/
def vectorAgain (s : State) (h : HeldAccess) (d : Reg) (n : Nat) : Again :=
  let addrs := (h.copy.getD (Vector.replicate 16 0)).toList.take (if n = 64 then 1 else 16)
  match placesOf s .read n addrs with
  | .error c => .ok (s.faultAgain { h with addr := c.tval } c)
  | .ok ps =>
    if ps.any (fun p => s.accessWaits false p.2.key n || s.stalled p.1 n false) then .error (s.parkOn .issue)
    else
      match s.readLanes h.instr d n h.seq ps with
      | .error c => .ok (s.faultAgain { h with addr := c.tval } c)
      | .ok (st, s1) => .ok (s1.pendReg h (vReg d) st)

/-- The held access `h` issued again; a RECVV with the registers of its first issue (15_time_axes.md R240). -/
def issueAgain (s : State) (h : HeldAccess) : Again :=
  match h.instr with
  | .ld d _ sz _ _ _ => loadAgain s h false (2 ^ sz.toNat) d
  | .lds d _ sz _ _ _ => loadAgain s h true (2 ^ sz.toNat) d
  | .st _ _ sz _ _ => storeAgain s h (2 ^ sz.toNat)
  | .far _ _ op _ => farAgain s h op
  | .ldf d _ _ _ => fullAgain s h false d
  | .ldfe d _ _ _ => fullAgain s h true d
  | .hold d _ _ _ => holdAgain s h d
  | .recvv d _ => .ok (s.pendAgain h d (.message (h.copy.getD s.th.w)))
  | .quies d _ => .ok ((s.mapPart fun p => { p with quietSince := none }).pendAgain h d .quiet)
  | .pfxins d _ _ _ | .pfxpin d _ _ _ _ | .pfxunpin d _ _ _ => unitAgain s h d
  | .kvapp d _ _ _ _ => unitAgain s h d
  | .vld d .. => vectorAgain s h d 64
  | .vlds d .. | .vgat d .. => vectorAgain s h d 4
  | _ => .ok s

/-- The accesses due are issued again in program order, up to one for which the thread waits, if there is one. -/
def resumeHeld : Nat → State → State
  | 0, s => s
  | n + 1, s =>
    match s.th.pipe.held.find? (·.phase = .due) with
    | none => s
    | some h =>
      match issueAgain (s.mapTh fun t => { t with pipe := { t.pipe with held := t.pipe.held.erase h } }) h with
      | .error s1 => s1.mapTh (·.hold h)
      | .ok s1 => resumeHeld n s1

/-- The accesses that a TRET found held, issued again as far as they may be. -/
def State.resumeAll (s : State) : State := resumeHeld s.th.pipe.held.length s

/-! ### TRET -/

/-- The captured words of a frame that TRET finds active (R59). -/
def State.refetch (s : State) : Except Cause (List Half) :=
  let x := s.th.trap.rptst
  capture s (s.th.trap.tepc - BitVec.ofNat 64 (4 * rptPos x)) (rptLenM1 x + 1)

/-- Every held access that slept, and every fault of the handler, is to be issued again; one that must wait waits at the next issue. -/
def State.resumeDue (s : State) : State :=
  ((s.mapTh fun t => { t with pipe := { t.pipe with
    held := t.pipe.held.map (fun h => { h with phase := .due }) } }).resumeAll).mapTh fun t => { t with pipe := { t.pipe with park := none } }

/-- The effect of TRET (R161, R378): the pc, privilege and SP, the frame, fetched at the privilege that it returns to, and then the held
accesses. -/
def tretBody (s : State) : State :=
  let s1 := s.mapTh fun t => { t.leave.counted with pipe := { t.pipe with inFrame := false, frame := [] } }
  if rptActive s1.th.trap.rptst then
    match s1.refetch with
    | .error c => s1.takeTrap c
    | .ok ws => (s1.mapTh fun t => { t with pipe := { t.pipe with inFrame := true, frame := ws } }).resumeDue
  else s1.resumeDue

/-- TRET (R161, R378): privileged for a user, illegal outside a handler. -/
def execTret (s : State) : Result :=
  let pre := if s.th.isUser then some (privileged .tret) else if !s.th.st tSP then some (illegal .tret) else none
  issue .tret s pre [] fun s => .done (tretBody s)

/-! ### WAITI -/

/-- The thread parks at WAITI. -/
def Thread.waitsForInterrupt (t : Thread) : Bool := t.st tIE && !(t.st tSP && t.pipe.irq ≠ 0)

/-- WAITI (R161, R396): nothing with IE = 0; otherwise the thread parks until an interrupt is pending, and with SP = 1 goes on
at once where one is. -/
def execWaiti (s : State) : Result :=
  issue .waiti s none [] fun s =>
    if s.th.waitsForInterrupt then .parked (s.parkOn .interrupt) else .done s.advance

/-! ### HALT -/

/-- The thread is the last one bound to a frame axis that holds a frame (R272, R341). -/
def State.lastOfFrames (s : State) : Bool :=
  s.th.bound && s.th.axisMode = 1 && s.lastBound && (s.axisOf (BitVec.ofNat 14 s.th.axisNum)).frames ≠ []

/-- A pending RECVV is withdrawn (R341 step 1). -/
def Thread.dropRecv (t : Thread) : Thread :=
  { t with pipe := { t.pipe with pend := t.pipe.pend.filter (fun p => match p.st with
    | .message _ => false
    | _ => true) } }

/-- Some other pending result is not yet in hand, or an access that has not faulted is outstanding (R341 steps 1 and 2). -/
def State.haltWaits (s : State) : Bool :=
  s.plainPending || s.waiters.any (fun w => w.owner == some s.th.tid) ||
  s.th.pipe.pend.any (fun p => p.unwritten && !p.st.inHand && p.st != .faulted)

/-- The cause of a faulted job of the thread (R187); with SP = 1 no copy fault is taken (R160), so that HALT waits for the job
(log entry 70). -/
def State.jobCause (s : State) : Option Cause :=
  if s.th.st tSP then none
  else (s.core.jobs.find? (fun j => j.owner == s.th.tid && j.st = .faulted)).map fun j => ⟨0x0B, j.num.setWidth 8, j.faultAt⟩

/-- The slot is freed and its registers discarded (R341 step 6); vector instructions still queued write only those. -/
def State.freeSlotOf (s : State) : State :=
  let s1 := (s.mapCore fun c => { c with vq := c.vq.filter (·.owner != s.th.tid) }).eachCore (·.orphan s.th.tid)
  s1.vacate s1.th

/-- Steps 4 to 6 of R341. -/
def State.haltDone (s : State) : State :=
  let s1 := match s.th.holding with
    | some k => s.endHold k
    | none => s
  s1.unbind.freeSlotOf

/-- The effect of HALT (R341). -/
def haltBody (s : State) : Effort :=
  if s.haltWaits then .parked (s.parkOn .issue)
  else
    match s.th.faultCause with
    | some c => .trap c
    | none =>
      match s.jobCause with
      | some c => .trapIn (s.mapTh (·.dropCopyFault (c.detail.setWidth 4))) c
      | none =>
        if s.hasJob || s.core.cq.any (·.owner == s.th.tid) then .parked (s.parkOn .issue) else .done s.haltDone

/-- HALT (R341): illegal inside a boosted task, and for the last thread bound to a frame axis that holds a frame. -/
def execHalt (s : State) : Result :=
  if s.th.st tBOOST || s.lastOfFrames then issue .halt s (some (illegal .halt)) [] haltBody
  else issue .halt (s.mapTh Thread.dropRecv) none [] haltBody

end Sys2Proof.Machine
end

