-- ==== Sys2Proof/Machine/Queues.lean ====
section
/-! DEFINITION. Command queues and the front end: descriptors (18_host.md R286), records and their fetch (R287, R288), acceptance and
completion (R289), and the commands LAUNCH, COPY, SIGNAL and WAIT (R290). -/
namespace Sys2Proof.Machine

/-! ### Queue descriptors (R286) -/

def CmdQueue.initial (q : BitVec 12) : CmdQueue :=
  { num := q, word0 := 0, word1 := 0, cons := 0, prod := 0, refetch := 0, refetchAt := 0, busy := none, fetched := false,
    sent := false, sentAt := 0, deadPart := false }
def State.queueOf (s : State) (q : BitVec 12) : CmdQueue := (s.queues.find? (·.num == q)).getD (CmdQueue.initial q)
def State.putQueue (s : State) (x : CmdQueue) : State := { s with queues := putBy (·.num == x.num) x s.queues }
def State.updQueue (s : State) (q : BitVec 12) (f : CmdQueue → CmdQueue) : State := s.putQueue (f (s.queueOf q))

def CmdQueue.en (x : CmdQueue) : Bool := bit x.word1 63
def CmdQueue.inDevice (x : CmdQueue) : Bool := bit x.word1 62
def CmdQueue.priv (x : CmdQueue) : Bool := bit x.word1 61
def CmdQueue.stale (x : CmdQueue) : Bool := bit x.word1 60
def CmdQueue.iport (x : CmdQueue) : Bool := bit x.word1 54
def CmdQueue.part (x : CmdQueue) : BitVec 6 := x.word1.extractLsb' 48 6
def CmdQueue.size (x : CmdQueue) : Nat := 2 ^ bits x.word1 4 0

/-- The module offers commands: stage 2, or minimal mode (R302, R303). -/
def State.started (s : State) : Bool := bits s.modl.startStatus 3 0 = 2 || bits s.modl.startStatus 3 0 = 15

/-- A write of word 1: while the queue runs, only EN, IPORT and the W1C bits take it; EN rising starts the queue (R286). -/
def CmdQueue.writeWord1 (x : CmdQueue) (v : Word) : CmdQueue :=
  let keep : Word := (if x.en then x.word1 else v) &&& (field allOnes 62 61 ||| field allOnes 53 48 ||| field allOnes 4 0)
  let flags : Word := field x.word1 60 59 &&& ~~~ v
  let y := { x with word1 := field v 63 63 ||| keep ||| flags ||| field v 54 54 }
  let z := if x.stale && bit v 60 then { y with refetch := 0 } else y
  if !x.en && bit v 63 then
    { z with cons := 0, prod := 0, refetch := 0, busy := none, fetched := false, sent := false, deadPart := false }
  else z

/-- QUEUE_ENABLE (R286): a write of descriptor word 1; EN starts the queue with CONS 0. -/
def execQueueEnable (q : BitVec 12) (v : Word) (s : State) : Result := .next (s.updQueue q (·.writeWord1 v))

/-- QUEUE_STALE_CLEAR (R288): the host writes word 1 back with STALE alone among the write-one-to-clear bits; STALE is cleared and
the queue fetches again at the same record. -/
def execQueueStaleClear (q : BitVec 12) (s : State) : Result :=
  .next (s.updQueue q fun x => x.writeWord1 (setBit (setBit x.word1 59 false) 60 true))

/-- What a host read of offset 0 of notify page `q` returns (R288). -/
def State.notifyRead (s : State) (q : BitVec 12) : Half := (s.queueOf q).cons

/-- NOTIFY_WRITE (R288): PROD is taken, or sets OVF when it announces more records than the queue holds. PROD counts the records since EN, so
that starting the queue sets it to 0 (log entry 72). -/
def execNotifyWrite (q : BitVec 12) (prod : Half) (s : State) : Result :=
  .next (s.updQueue q fun x =>
    if x.size < (prod - x.cons).toNat then { x with word1 := setBit x.word1 59 true }
    else { x with prod := prod })

/-! ### Acceptance and completion (R289) -/

/-- A completion word in the queue's partition, written as R79 says; address 0 stands for none. -/
def State.commandDone (s : State) (q : BitVec 12) (done st : Word) : State :=
  if done = 0 then s else s.complete (s.partAgent (s.queueOf q).part) none done st

/-- The command in progress is accepted: a record's counts in CONS. -/
def State.acceptCommand (s : State) (q : BitVec 12) : State :=
  s.updQueue q fun x => { x with busy := none, fetched := false, sent := false, cons := if x.fetched then x.cons + 1 else x.cons }

/-- What a command comes to: it is accepted in a state, or it still holds its queue. -/
inductive Progress where
  | accept (s : State)
  | hold (s : State)

/-- The command is refused as BAD_COMMAND whatever its arguments (R163, R289, R290): a privileged type on a queue without PRIV, a
partition that no longer exists, or one that has FAILED. -/
def State.commandBad (s : State) (q : BitVec 12) (priv : Bool) (target : Option (BitVec 6)) (teardown : Bool) : Bool :=
  let x := s.queueOf q
  (priv && !x.priv) || x.deadPart ||
  (!teardown && ((s.partOf x.part).state = 3 || (match target with
    | some p => (s.partOf p).state = 3
    | none => false)))

/-- A command of queue `q`: nothing before stage 2 (R303), nor while an earlier command of the queue is not accepted (R289). -/
def command (q : BitVec 12) (i : Instr) (bad : State → Bool) (done : Word) (s : State) (body : State → Progress) : Result :=
  let x := s.queueOf q
  if !s.started || (x.busy.isSome && x.busy != some i) then .next s
  else
    let s1 := if x.busy.isSome then s else s.updQueue q fun x => { x with busy := some i, sent := false }
    if bad s1 then .next ((s1.commandDone q done 5).acceptCommand q)
    else
      match body s1 with
      | .accept s2 => .next (s2.acceptCommand q)
      | .hold s2 => .next s2

/-- The firmware's lease has expired (R298). -/
def State.leaseOver (s : State) : Bool := bits s.modl.fwlease 63 8 ≤ (s.cycle - s.modl.startedAt) / 2

/-- A PARTITION or PREEMPT, which the leader executes: it waits while none has the lease (R298). -/
def led (body : State → Progress) (s : State) : Progress := if s.leaseOver then .hold s else body s

/-- Accepted with a status in the completion word. -/
def State.finishCommand (s : State) (q : BitVec 12) (done st : Word) : Progress := .accept (s.commandDone q done st)

/-! ### LAUNCH and COPY -/

/-- LAUNCH_COMMAND (R290): the record at `rec` is launched in the queue's partition; a record that cannot be read writes FAULTED
to DONE. -/
def execLaunchCommand (q : BitVec 12) (done rec : Word) (s : State) : Result :=
  command q (.launchCommand q done rec) (·.commandBad q false none false) done s fun s =>
    let p := (s.queueOf q).part
    let ag := s.partAgent p
    match resolve s ag .unitRead 128 rec with
    | .error _ => s.finishCommand q done 6
    | .ok pl =>
      if (dataError s pl rec 128).isSome then s.finishCommand q done 6
      else .accept (s.launchRecord ag none (unitWords s (s.partOf p) pl 16)).2

/-- The state in which the front end makes the checks of a thread of partition `p` at logical (0, 0) (log entry 16). -/
def State.asFrontEnd (s : State) (p : BitVec 6) : State :=
  { s with th := (newThread (mkTid ((s.partOf p).home 0 0) 0) p 0 0).setPriv 1, part := s.partOf p }

/-- The copy's arguments are refused (R180, R290). -/
def State.copyBad (s : State) (p : BitVec 6) (dst src n : Word) : Bool :=
  let x := s.asFrontEnd p
  (rangeCause x true n.toNat dst).isSome || (rangeCause x false n.toNat src).isSome ||
  copyRefused (x.absAddr src) (x.absAddr dst) n

/-- The copy `c` ends with a status. -/
def State.copyEnds (s : State) (c : FrontCopy) (st : Word) : State :=
  let s1 : State := { s with copies := s.copies.erase c }
  if c.done = 0 then s1 else s1.complete (s1.partAgent c.part) none c.done st

/-- The destination granule of the copy lies behind a hold (03_addresses.md R49). -/
def State.copyHeld (s : State) (c : FrontCopy) : Bool :=
  match resolve s (s.partAgent c.part) .engineWrite 64 c.dst with
  | .ok pl => (s.heldByOther none pl.key 64).isSome
  | .error _ => false

/-- The copy's next granule (R181, R290). -/
def State.copyGranule (s : State) (c : FrontCopy) : State :=
  let ag := s.partAgent c.part
  match resolve s ag .engineRead 64 c.src with
  | .error _ => s.copyEnds c 6
  | .ok sp =>
    if (dataError s sp c.src 64).isSome then s.copyEnds c 6
    else
      match resolve s ag .engineWrite 64 c.dst with
      | .error _ => s.copyEnds c 6
      | .ok dp =>
        if s.copyHeld c then s
        else
          let s1 := s.storeAt dp ag.tid 7 64 (unitGranule s (s.partOf c.part) sp)
          if c.left ≤ 64 then s1.copyEnds c 1
          else { s1 with copies := s1.copies.map fun x =>
            if x == c then { c with dst := c.dst + 64, src := c.src + 64, left := c.left - 64 } else x }

/-- The copy that the command's arguments name as what is left of it. -/
def State.copyNamed (s : State) (q : BitVec 12) (done dst src len : Word) : Option FrontCopy :=
  s.copies.find? (fun c => c.queue == q && c.done == done && c.dst == dst && c.src == src && c.left == len)

/-- COPY_COMMAND (R290): the copy is queued at the front end; an event that names what is left of a queued copy, while the queue has no such
command in progress, performs its next granule. -/
def execCopyCommand (q : BitVec 12) (done dst src len : Word) (s : State) : Result :=
  let i : Instr := .copyCommand q done dst src len
  match (if (s.queueOf q).busy = some i then none else s.copyNamed q done dst src len) with
  | some c => .next (s.copyGranule c)
  | none =>
    command q i (·.commandBad q false none false) done s fun s =>
      let p := (s.queueOf q).part
      if s.copyBad p dst src len then s.finishCommand q done 5
      else if len = 0 then s.finishCommand q done 1
      else
        let x := s.asFrontEnd p
        .accept { s with copies := s.copies ++ [⟨q, p, done, x.absAddr dst, x.absAddr src, len⟩] }

/-! ### SIGNAL and WAIT -/

/-- The waiting store of the SIGNAL of queue `q`. -/
def Waiter.ofQueue (w : Waiter) (q : BitVec 12) : Bool :=
  w.owner.isNone && w.seq == zx q + 1 && (match w.op with
    | .stf | .post _ _ => true
    | _ => false)

/-- A request that a full list refused is sent again (03_addresses.md R47). -/
def State.resend (s : State) (w : Waiter) : State :=
  let s1 : State := { s with waiters := s.waiters.erase w }
  match w.posting with
  | some (q, poster) =>
    if (s.dispenser q).tasks.length < 16 && w.ready s then w.posted (s1.queueTask q (w.data.setWidth 64) poster)
    else s1.enlist { w with retryAt := none }
  | none => s1.request { w with retryAt := none }

/-- Every refused request that `p` picks and whose 256 cycles are over is sent again. -/
def State.resendDue (s : State) (p : Waiter → Bool) : State :=
  (s.waiters.filter (fun w => p w && (match w.retryAt with
    | some n => n ≤ s.cycle
    | none => false))).foldl State.resend s

/-- The SIGNAL goes on once its store stands at the memory: it is accepted when the store is performed (R289). -/
def signalWaits (q : BitVec 12) (done : Word) (s : State) : Progress :=
  if s.waiters.any (·.ofQueue q) then .hold (s.updQueue q fun x => { x with sent := true }) else s.finishCommand q done 1

/-- SIGNAL (R290): an STF; a doorbell post carries all ones as its poster (R84). -/
def execSignal (q : BitVec 12) (done addr value : Word) (s : State) : Result :=
  command q (.signal q done addr value) (·.commandBad q false none false) done s fun s =>
    let x := s.queueOf q
    let ag := s.partAgent x.part
    if x.sent then signalWaits q done (s.resendDue (·.ofQueue q))
    else
      match resolve s ag .stf 8 addr with
      | .error _ => s.finishCommand q done 6
      | .ok pl =>
        let w : Waiter := ⟨none, pl, 8, addr, .stf, value.setWidth 512, 0, none, none, zx q + 1⟩
        match pl.special with
        | .watchdog => (s.updPart ag.part (·.wdRestart s.cycle)).finishCommand q done 1
        | .doorbell n _ => signalWaits q done (s.post n w allOnes).2
        | .none | .peerDoorbell => signalWaits q done (s.request w)

/-- WAIT_COMMAND (R290): the queue is held until the word at `addr` is full. -/
def execWaitCommand (q : BitVec 12) (done addr : Word) (s : State) : Result :=
  command q (.waitCommand q done addr) (·.commandBad q false none false) done s fun s =>
    match resolve s (s.partAgent (s.queueOf q).part) .feRead 8 addr with
    | .error _ => s.finishCommand q done 6
    | .ok pl =>
      if s.isFull pl.key && (s.heldByOther none pl.key 8).isNone then s.finishCommand q done 1 else .hold s

/-! ### Records (R287, R288) -/

/-- Word `n` of the record that the queue reads next. -/
def State.recordWordOf (s : State) (x : CmdQueue) (n : Nat) : Word :=
  let a := bits x.word0 63 6 * 64 + 64 * (x.cons.toNat % x.size) + 8 * n
  if x.inDevice then s.wordAt (hbmPlace a) else s.mem.word (hostKey a)

/-- The eight words of the record. -/
def State.commandRecord (s : State) (x : CmdQueue) : List Word := (List.range 8).map (s.recordWordOf x)

/-- The eight words at a host bus address, where a partition descriptor lies (R290, R291). -/
def State.hostWords (s : State) (a : Word) : List Word := (List.range 8).map fun n => s.mem.word (hostKey (a.toNat + 8 * n))

/-- The command that a record names: none for an unknown type, a nonzero reserved field, or an unknown operation (R287, R290, R291,
R292). -/
def State.commandOf (s : State) (q : BitVec 12) (ws : List Word) : Option Instr :=
  let r := recWord ws
  let tpart : BitVec 6 := (r 0).extractLsb' 16 6
  if bits (r 0) 63 22 ≠ 0 || bits (r 0) 15 8 ≠ 0 || bits (r 7) 63 32 ≠ 0 then none
  else
    match bits (r 0) 7 0 with
    | 1 => some (.launchCommand q (r 1) (r 2))
    | 2 => some (.copyCommand q (r 1) (r 2) (r 3) (r 4))
    | 3 => some (.signal q (r 1) (r 2) (r 3))
    | 4 => some (.waitCommand q (r 1) (r 2))
    | 5 =>
      match bits (recWord (s.hostWords (r 2)) 0) 33 32 with
      | 0 => some (.partitionCreate q (r 1) (r 2))
      | 1 => some (.partitionResize q (r 1) tpart (r 2))
      | 2 => some (.partitionSetLimits q (r 1) tpart (r 2))
      | _ => none
    | 6 =>
      if bits (r 2) 63 9 ≠ 0 || bits (r 2) 7 2 ≠ 0 then none
      else
        match bits (r 2) 1 0 with
        | 0 => some (.preemptVacate q (r 1) tpart (r 2) (r 3) (r 4))
        | 1 => some (.preemptSwitchOut q (r 1) tpart (r 2) (r 4))
        | 2 => some (.preemptSwitchIn q (r 1) tpart (r 4))
        | _ => some (.preemptReturn q (r 1) tpart (r 3) (r 4))
    | 7 => some (.teardown q (r 1) tpart)
    | _ => none

/-- A record whose SEQ matches: its command is the queue's next, or it is refused as BAD_COMMAND. -/
def State.takeRecord (s : State) (q : BitVec 12) (ws : List Word) : State :=
  let s1 := s.updQueue q fun x => { x with refetch := 0, fetched := true, sent := false }
  match s.commandOf q ws with
  | some i => s1.updQueue q fun x => { x with busy := some i }
  | none => (s1.commandDone q (recWord ws 1) 5).acceptCommand q

/-- SEQ of a record is CONS + 1. -/
def CmdQueue.seqOk (x : CmdQueue) (ws : List Word) : Bool := bits (recWord ws 7) 31 0 = (x.cons + 1).toNat

/-- The queue may read a record: enabled, not STALE, with a record announced and no command in progress (R288, R289). -/
def State.mayFetch (s : State) (x : CmdQueue) : Bool := s.started && x.en && !x.stale && x.busy.isNone && x.cons != x.prod

/-- COMMAND_FETCH (R288): the front end reads record CONS. -/
def execCommandFetch (q : BitVec 12) (s : State) : Result :=
  let x := s.queueOf q
  .next (if s.mayFetch x && x.refetch = 0 then
      let ws := s.commandRecord x
      if x.seqOk ws then s.takeRecord q ws else s.putQueue { x with refetch := 1, refetchAt := s.cycle }
    else s)

/-- The queue's next re-fetch is due. -/
def State.refetchDue (s : State) (x : CmdQueue) : Bool :=
  s.mayFetch x && x.refetch ≠ 0 && x.refetchAt + Config.refetchCycles ≤ s.cycle

/-- COMMAND_RECORD_REFETCH (R288): the record is read again; after the sixteenth the queue goes STALE and raises its interrupt. -/
def execCommandRecordRefetch (q : BitVec 12) (s : State) : Result :=
  let x := s.queueOf q
  .next (if s.refetchDue x then
      let ws := s.commandRecord x
      if x.seqOk ws then s.takeRecord q ws
      else if x.refetch < 16 then s.putQueue { x with refetch := x.refetch + 1, refetchAt := s.cycle }
      else (s.putQueue { x with refetch := 0, word1 := setBit x.word1 60 true }).interrupt x.iport false
    else s)

end Sys2Proof.Machine
end

