-- ==== Sys2Proof/Machine/Partitions.lean ====
section
/-! DEFINITION. Partitions: PARTITION create, resize and set limits (18_host.md R291), and TEARDOWN (05_work.md R81; 18_host.md R289). -/
namespace Sys2Proof.Machine

/-! ### Descriptors (R291) -/

def descHM1 (ws : List Word) : BitVec 7 := (recWord ws 0).extractLsb' 24 7
def descWM1 (ws : List Word) : BitVec 6 := (recWord ws 0).extractLsb' 16 6
def descOY (ws : List Word) : BitVec 7 := (recWord ws 0).extractLsb' 6 7
def descOX (ws : List Word) : BitVec 6 := (recWord ws 0).extractLsb' 0 6

/-- The descriptor is refused for the operation `op`: a nonzero reserved field, or another operation. -/
def descBad (op : Nat) (ws : List Word) : Bool := bits (recWord ws 0) 63 34 ≠ 0 || bits (recWord ws 0) 33 32 ≠ op

/-- Width and height are even (their fields hold them less one). -/
def evenSize (hm1 : BitVec 7) (wm1 : BitVec 6) : Bool := bit hm1 0 && bit wm1 0

/-- A create's descriptor is refused (R291). -/
def createBad (ws : List Word) : Bool :=
  descBad 0 ws || !evenSize (descHM1 ws) (descWM1 ws) || bit (descOY ws) 0 || bit (descOX ws) 0 ||
  bits (recWord ws 5) 1 0 ≠ 0 || bits (recWord ws 7) 1 0 ≠ 0

/-! ### Cores -/

/-- What stands for physical core `c` in a new map: a removed core's stand-in, the shadow slice of a failing one, or the core
itself (R291; 10_traps.md R177). -/
def State.standIn (s : State) (c : Cid) : MapTarget :=
  match s.modl.replaced.find? (·.1 == c) with
  | some x => .core x.2
  | none => if s.modl.failing.contains c then .shadow c else .core c

/-- The logical cores of a rectangle in row-major order. -/
def rectLogical (oy : BitVec 7) (ox : BitVec 6) (hm1 : BitVec 7) (wm1 : BitVec 6) : List (BitVec 7 × BitVec 6) :=
  ((List.range (hm1.toNat + 1)).map fun y => (List.range (wm1.toNat + 1)).map fun x =>
    (oy + BitVec.ofNat 7 y, ox + BitVec.ofNat 6 x)).flatten

/-- The logical cores of a partition. -/
def Partition.logical (p : Partition) : List (BitVec 7 × BitVec 6) := rectLogical 0 0 p.hm1 p.wm1

def MapTarget.cid : MapTarget → Cid
  | .core c => c
  | .shadow c => c

/-- The core map with an entry for each logical core given whose memory lies elsewhere than at its default core. -/
def State.mapFor (s : State) (p : Partition) (ls : List (BitVec 7 × BitVec 6)) : List (BitVec 13 × MapTarget) :=
  ls.filterMap fun (y, x) =>
    let c := p.home y x
    if s.standIn c = .core c then none else some ((y ++ x : BitVec 13), s.standIn c)

/-- The rectangle lies on the physical grid, in minimal mode on die (0, 0) (R303). -/
def State.onGrid (s : State) (p : Partition) : Bool :=
  p.oy.toNat + p.H ≤ 128 && p.ox.toNat + p.W ≤ 64 &&
  (bits s.modl.startStatus 3 0 ≠ 15 || (p.oy.toNat + p.H ≤ 32 && p.ox.toNat + p.W ≤ 16))

/-- Core `c` given to partition `p`: its matrix context is as at reset (09_matrix_vector.md R142), its job numbers start at 0 with no
results (11_engines.md R179, R184), and its network interface holds no entry of another partition's map (03_addresses.md R34). -/
def State.giveCore (s : State) (p : BitVec 6) (c : Cid) : State :=
  s.updCore c fun x => { x with
    owner := some p, mx := Matrix.initial, rotation := 0, copyTurn := 15, results := [], mapCache := [], frozen := none }

/-- The map entries of some logical cores have changed: every network interface of the partition drops them (03_addresses.md R34). -/
def State.remapped (s : State) (p : BitVec 6) (ls : List (BitVec 13)) : State :=
  s.eachCore fun c => if c.owner == some p then { c with mapCache := c.mapCache.filter (!ls.contains ·) } else c

/-- The cores free for a partition. -/
def State.allFree (s : State) (cs : List Cid) : Bool := cs.all fun c => (s.coreOf c).owner.isNone

/-- The lowest free partition number. -/
def State.freeNumber (s : State) : Option (BitVec 6) :=
  ((List.range 64).map (BitVec.ofNat 6)).find? fun n => !(s.partOf n).live

/-! ### PARTITION -/

/-- The partition that a descriptor creates. -/
def State.newPartition (s : State) (n : BitVec 6) (ws : List Word) : Partition :=
  let r := recWord ws
  let old := s.partOf n
  let p : Partition := { Partition.absent n with
    live := true, oy := descOY ws, ox := descOX ws, hm1 := descHM1 ws, wm1 := descWM1 ws
    sbmwin := field (r 1) 63 48 ||| field (r 1) 27 16 ||| field (r 1) 11 0
    ptroot := field (r 2) 40 12
    asid := n.setWidth 16
    tvec := r 7
    wdLimit := r 3, wdStart := s.cycle
    level := (r 4).setWidth 32, levelAt := s.cycle
    roundAt := s.cycle
    brk := old.brk, iport := old.iport, erbase := old.erbase, ertail := old.ertail, erlog := old.erlog, erhead := old.erhead
    erCount := old.erCount }
  { p with map := s.mapFor p p.logical }

/-- The supervisor thread that starts a partition (R291). -/
def Partition.runtimeThread (p : Partition) (ws : List Word) : Thread :=
  let tid := mkTid (p.physical 0 0) 0
  let t := newThread tid p.num 0 0
  { (t.wr 1 (recWord ws 6)).setPriv 1 with
    pc := recWord ws 5, base := true, trap := { t.trap with tvec := recWord ws 7 } }

/-- The partition created: its cores, its translations and its first thread. -/
def State.create (s : State) (n : BitVec 6) (ws : List Word) : State :=
  let p := s.newPartition n ws
  let s1 := (p.logical.map fun (y, x) => (p.target y x).cid).foldl (fun s c => s.giveCore n c) s
  ((s1.putPart p).flushAsid p.asid).seat (p.runtimeThread ws)

/-- PARTITION_CREATE (R291). -/
def execPartitionCreate (q : BitVec 12) (done desc : Word) (s : State) : Result :=
  command q (.partitionCreate q done desc) (·.commandBad q true none false) done s <| led fun s =>
    let ws := s.hostWords desc
    if createBad ws then s.finishCommand q done 5
    else
      match s.freeNumber with
      | none => s.finishCommand q done 3
      | some n =>
        let p := s.newPartition n ws
        if !s.onGrid p || !s.allFree (p.logical.map fun (y, x) => (p.target y x).cid) then s.finishCommand q done 3
        else (s.create n ws).finishCommand q done (BitVec.ofNat 64 (n.toNat * 2 ^ 16 + 1))

/-- A core may leave its partition: no active slot, no shadow contents (R291). -/
def State.mayLeave (s : State) (t : MapTarget) : Bool :=
  match t with
  | .shadow _ => false
  | .core c => s.coreThreads c = [] && (s.coreOf c).shadowHolds.isNone

/-- The partition with another size: cores added and removed; none where they are not free (R291). DESIGN CHOICE (log entry 77): work-list
entries on their way to or from a removed core are lost. -/
def State.resized (s : State) (p : Partition) (hm1 : BitVec 7) (wm1 : BitVec 6) : Option State :=
  let p1 := { p with hm1 := hm1, wm1 := wm1 }
  let added := p1.logical.filter (!p.logical.contains ·)
  let removed := p.logical.filter (!p1.logical.contains ·)
  let p2 := { p1 with map := (p.map.filter fun e => p1.logical.any fun (y, x) => (y ++ x : BitVec 13) == e.1) ++ s.mapFor p1 added }
  let newCores := added.map fun (y, x) => (p2.target y x).cid
  let oldTargets := removed.map fun (y, x) => p.target y x
  if !s.onGrid p1 || !s.allFree newCores || !oldTargets.all s.mayLeave then none
  else
    let s1 := newCores.foldl (fun s c => s.giveCore p.num c) s
    let s2 := (oldTargets.map MapTarget.cid).foldl (fun s c => s.updCore c fun x => { x with owner := none }) s1
    let gone : List (BitVec 13) := removed.map fun (y, x) => y ++ x
    let s3 : State := { s2 with transits := s2.transits.filter fun x => !(x.part == p.num && (gone.contains x.dest || gone.contains x.back)) }
    some ((s3.putPart p2).remapped p.num (gone ++ added.map fun (y, x) => y ++ x))

/-- PARTITION_RESIZE (R291): the origin stays. -/
def execPartitionResize (q : BitVec 12) (done : Word) (tpart : BitVec 6) (desc : Word) (s : State) : Result :=
  command q (.partitionResize q done tpart desc) (·.commandBad q true (some tpart) false) done s <| led fun s =>
    let ws := s.hostWords desc
    if descBad 1 ws || !evenSize (descHM1 ws) (descWM1 ws) || !(s.partOf tpart).live then s.finishCommand q done 5
    else
      match s.resized (s.partOf tpart) (descHM1 ws) (descWM1 ws) with
      | none => s.finishCommand q done 3
      | some s1 => s1.finishCommand q done 1

/-- PARTITION_SET_LIMITS (R291): words 3 and 4 only. -/
def execPartitionSetLimits (q : BitVec 12) (done : Word) (tpart : BitVec 6) (desc : Word) (s : State) : Result :=
  command q (.partitionSetLimits q done tpart desc) (·.commandBad q true (some tpart) false) done s <| led fun s =>
    let ws := s.hostWords desc
    if descBad 2 ws || !(s.partOf tpart).live then s.finishCommand q done 5
    else
      (s.updPart tpart fun p => { p with wdLimit := recWord ws 3, level := (recWord ws 4).setWidth 32 }).finishCommand q done 1

/-! ### TEARDOWN -/

/-- A thread of the launch has not ended, wherever it stands. -/
def State.launchLives (s : State) (l : Launch) : Bool :=
  s.activeThreads.any (fun t => t.launch == some l.id) || (s.partOf l.part).save.all.any (fun t => t.launch == some l.id) ||
  s.moves.any (fun m => m.thread.launch == some l.id)

/-- The launch is complete (R79). -/
def State.launchDone (s : State) (l : Launch) : Bool := l.next = recWord l.record 3 && !s.launchLives l

/-- Every launch of the partition that has not completed ends with CONTEXT_CLOSING; one that is complete receives its DONE (R79, R81). -/
def State.closeLaunches (s : State) (p : BitVec 6) : State :=
  let mine := s.launches.filter (·.part == p)
  let s1 : State := { s with launches := s.launches.filter (·.part != p) }
  mine.foldl (fun t l => t.complete (t.partAgent p) l.caller (recWord l.record 8) (if s.launchDone l then 1 else 4)) s1

/-- The LAUNCH commands that the partition's queues have taken and not yet carried out are refused with CONTEXT_CLOSING (R81). -/
def State.closeTaken (s : State) (p : BitVec 6) : State :=
  (s.queues.filter (·.part == p)).foldl (fun s x => match x.busy with
    | some (.launchCommand _ done rec) =>
      let ag := s.partAgent p
      let s1 := match resolve s ag .unitRead 128 rec with
        | .error _ => s.commandDone x.num done 6
        | .ok pl =>
          if (dataError s pl rec 128).isSome then s.commandDone x.num done 6
          else
            let ws := unitWords s (s.partOf p) pl 16
            s.complete ag none (recWord ws 8) (recordStatus { s.partOf p with live := false } ws)
      s1.acceptCommand x.num
    | _ => s) s

/-- The holder is a thread of the partition. -/
def State.holderOf (s : State) (p : BitVec 6) : Holder → Bool
  | .thread t => (s.thread t).active && (s.thread t).part == p
  | .peer _ => false
  | .saved q _ => q == p
  | .turn t => (s.thread t).part == p

/-- Holds of the partition's threads end, and their reservations leave (03_addresses.md R50). -/
def State.dropHolds (s : State) (p : BitVec 6) : State :=
  let s1 : State := { s with held := s.held.map fun h => { h with queue := h.queue.filter fun x => !s.holderOf p x.holder } }
  ((s1.held.filter fun h => s.holderOf p h.holder).map (·.key)).foldl State.endHold s1

/-- A core without the work of partition `p`. -/
def Core.without (c : Core) (p : BitVec 6) : Core :=
  let mine := c.owner == some p
  let c1 := if mine then c.cancelJobs else c
  { c1 with
    owner := if mine then none else c.owner
    shadowHolds := if c.shadowHolds == some p then none else c.shadowHolds
    stopped := if mine then false else c.stopped
    vq := if mine then [] else c.vq
    cq := if mine then [] else c.cq
    mx := if mine then Matrix.initial else c.mx
    commits := c.commits.filter (·.part != p) }

/-- A frame axis whose threads are gone drains (17_run_ahead.md R272). -/
def State.drainAxes (s : State) (p : BitVec 6) : State :=
  (s.axes.filter (fun a => a.owner == some p && s.boundTo p a.num.toNat ≠ [])).foldl (fun s a =>
    s.updAxis a.num fun x => { x with frames := [], draining := true }) s

/-- Everything that the partition's threads have under way is discarded (R81). -/
def State.discard (s : State) (p : BitVec 6) : State :=
  let mine (t : Tid) : Bool := (s.thread t).active && (s.thread t).part == p
  let dropped (w : Waiter) : Bool := match w.op, w.owner with
    | .effect e _ _, _ => e.part == p
    | _, some t => mine t
    | _, none => false
  let s0 := s.drainAxes p
  let s1 : State := { s0 with waiters := s0.waiters.filter (!dropped ·) }
  let ax := (s.axes.filter (fun a => a.owner == some p)).map (·.num)
  let s2 : State := { (s1.dropHolds p) with
    messages := s1.messages.filter (·.part != p)
    dir := s1.dir.filter (·.part != p)
    cascade := s1.cascade.filter (·.part != p)
    moves := s1.moves.filter (·.thread.part != p)
    transits := s1.transits.filter (·.part != p)
    copies := s1.copies.filter (·.part != p) }
  let s3 : State := { s2.eachCore (·.without p) with
    th := if s2.th.part == p then s2.th.vacated else s2.th
    others := updBy (·.part == p) Thread.vacated s2.others }
  let s4 := s3.updPart p fun x => { x with save := (Partition.absent p).save }
  ax.foldl State.recompute s4

/-- The partition ceases to exist; its block's host registers stay, and queues that name it refuse their records (R289). -/
def State.remove (s : State) (p : BitVec 6) : State :=
  let old := s.partOf p
  let s1 := s.flushAsid old.asid
  { s1.putPart { Partition.absent p with
      brk := old.brk, iport := old.iport, erbase := old.erbase, ertail := old.ertail, erlog := old.erlog, erhead := old.erhead,
      erCount := old.erCount } with
    queues := s1.queues.map fun x => if x.en && x.part == p then { x with deadPart := true } else x }

/-- TEARDOWN (R81, R289, R290): DONE is written last, while the partition's translation still stands. -/
def execTeardown (q : BitVec 12) (done : Word) (tpart : BitVec 6) (s : State) : Result :=
  command q (.teardown q done tpart) (·.commandBad q true (some tpart) true) done s fun s =>
    if !(s.partOf tpart).live then s.finishCommand q done 5
    else .accept ((((((s.closeLaunches tpart).closeTaken tpart).discard tpart).commandDone q done 1).remove tpart))

end Sys2Proof.Machine
end

