-- ==== Sys2Proof/Machine/SaveArea.lean ====
section
/-! DEFINITION. The save area that a PREEMPT command names in device memory (10_traps.md R168, R171; 18_host.md R292): where each core and
thread of a partition stands in it, the words of a matrix context and of a thread, and a local memory's image. The spec gives no
layout: the one here is the model's (log entry 74). -/
namespace Sys2Proof.Machine

/-! ### Words in device memory -/

/-- Some words written from `a` on for agent `ag`, with an entry for each granule in the trace ring of a local memory's port (06_ordering.md
R102); a word that no translation reaches is lost. -/
def State.saveWords (s : State) (ag : Agent) (a : Word) : List Word → State
  | [] => s
  | x :: xs =>
    let s1 := match resolve s ag .engineWrite 8 a with
      | .ok pl =>
        let s1 := (s.clearPoison pl.key 8).putBytes pl 8 x.toNat
        if a.toNat % 64 = 0 then s1.tracedAt pl 0 14 64 else s1
      | .error _ => s
    s1.saveWords ag (a + 8) xs

/-- `n` words read from `a` on. -/
def State.savedWords (s : State) (ag : Agent) (a : Word) (n : Nat) : List Word :=
  (List.range n).map fun i => match resolve s ag .engineRead 8 (a + BitVec.ofNat 64 (8 * i)) with
    | .ok pl => s.wordAt pl
    | .error _ => 0

/-- Some granule of the `n` bytes from `a` on is out of reach. -/
def State.areaFaults (s : State) (ag : Agent) (ac : Access) (a : Word) (n : Nat) : Bool :=
  (List.range ((n + 63) / 64)).any fun k => match resolve s ag ac 64 (a + BitVec.ofNat 64 (64 * k)) with
    | .ok _ => false
    | .error _ => true

/-! ### The layout -/

/-- The bytes that the area keeps for one logical core: its local memory's image, its matrix context, and its eight slots. -/
def saveStride : Nat := 0x210000
def saveMatrix : Nat := 0x200000
def saveSlots : Nat := 0x208000
def saveEnd : Nat := 0x20C000

/-- Byte `off` of the block of logical (y, x). -/
def saveAt (area : Word) (y : BitVec 7) (x : BitVec 6) (off : Nat) : Word :=
  area + BitVec.ofNat 64 ((y.toNat * 64 + x.toNat) * saveStride + off)

/-- Where a thread stands: in the block of its home logical core, by its home slot. -/
def Thread.saveAt (t : Thread) (area : Word) : Word :=
  Sys2Proof.Machine.saveAt area t.ident.ly t.ident.lx (saveSlots + 0x800 * (tidSlot t.home).toNat)

/-! ### A matrix context and a thread as words -/

/-- A number of `n` words, and back. -/
def natWords (n x : Nat) : List Word := (List.range n).map fun i => BitVec.ofNat 64 (x / 2 ^ (64 * i))
def natOf (ws : List Word) : Nat := ws.foldr (fun w acc => w.toNat + 2 ^ 64 * acc) 0

def MxRing.words (r : MxRing) : List Word :=
  [BitVec.ofNat 64 (r.qc.toNat * 2 ^ 56 + r.nslot * 2 ^ 40 + r.tile * 2 ^ 32 + r.base), BitVec.ofNat 64 r.head, BitVec.ofNat 64 r.tail]
def MxRing.ofWords (ws : List Word) : MxRing :=
  let x := recWord ws 0
  { qc := x.extractLsb' 56 2, nslot := bits x 55 40, tile := bits x 39 32, base := bits x 31 0,
    head := (recWord ws 1).toNat, tail := (recWord ws 2).toNat }

/-- The state of R142: configuration, map, rings, accumulators, MXERR and MXLOC, 2,091 words. -/
def Matrix.words (m : Matrix) : List Word :=
  [BitVec.ofNat 64 (m.cfg.fa.toNat + m.cfg.fb.toNat * 16 + m.cfg.sca.toNat * 2 ^ 8 + m.cfg.scb.toNat * 2 ^ 9 + m.cfg.dside.toNat * 2 ^ 12),
   m.mxerr, m.mxloc] ++ natWords 16 m.map.toNat ++ m.rings.toList.flatMap MxRing.words ++ m.acc.toList.flatMap fun a => natWords 512 a.toNat
def Matrix.ofWords (m : Matrix) (ws : List Word) : Matrix :=
  let x := recWord ws 0
  { m with
    cfg := { fa := x.extractLsb' 0 4, fb := x.extractLsb' 4 4, sca := bit x 8, scb := bit x 9, dside := bit x 12 }
    mxerr := csrBits 0x050 (recWord ws 1), mxloc := csrBits 0x051 (recWord ws 2)
    map := BitVec.ofNat 1024 (natOf ((ws.drop 3).take 16))
    rings := Vector.ofFn fun i => MxRing.ofWords ((ws.drop (19 + 3 * i.val)).take 3)
    acc := Vector.ofFn fun i => BitVec.ofNat 32768 (natOf ((ws.drop (43 + 512 * i.val)).take 512)) }
def matrixWords : Nat := 2091

/-- The registers of a thread that the area keeps (R53, R171): w, m, pc, TSTAT, RPTST, pending interrupts, the other registers, and v. -/
def Thread.words (t : Thread) : List Word :=
  t.w.toList ++ t.m.toList ++
  [t.pc, t.tstat, t.trap.rptst, t.pipe.irq.setWidth 64, (t.pipe.irq >>> 64).setWidth 64,
   t.ident.wid, t.ident.widw, t.ident.org, t.ident.ext, t.ident.icnt, t.trap.tvec, t.trap.tepc, t.trap.tcause, t.trap.tval, t.trap.tscr,
   t.rw.rsbase, t.rw.rslim, t.rw.rstk, t.rw.rbvec, t.ax.lvt, t.ax.axis, t.ax.tvt, t.ring.mrbase, t.ring.mrsize, t.pipe.ebud] ++
  t.v.toList.flatMap fun x => natWords 8 x.toNat
/-- TSTAT as a thread can hold it: PRIV is never 0b10 (R55), which reads as user (log entry 74). -/
def tstatOf (x : Word) : Word := if bits x 1 0 = 2 then field x 9 2 else csrBits 0x040 x
/-- The thread with those words back: a reserved field reads as zero whatever the area holds (00_scope.md R3), and w0 and m0 stay as they are
wired (04_threads.md R53, R54). -/
def Thread.ofWords (t : Thread) (ws : List Word) : Thread :=
  let r (n : Nat) : Word := recWord ws (20 + n)
  let q (n num : Nat) : Word := csrBits num (r n)
  { t with
    w := Vector.ofFn fun i => if i.val = 0 then 0 else recWord ws i.val
    m := Vector.ofFn fun i => if i.val = 0 then allOnes else recWord ws (16 + i.val)
    pc := field (r 0) 63 2, tstat := tstatOf (r 1)
    ident := { t.ident with wid := r 5, widw := q 6 0x001, org := r 7, ext := r 8, icnt := r 9 }
    trap := { tvec := q 10 0x041, tepc := q 11 0x042, tcause := q 12 0x043, tval := r 13, tscr := r 14, rptst := q 2 0x046 }
    rw := { t.rw with rsbase := q 15 0x024, rslim := q 16 0x025, rstk := q 17 0x023, rbvec := q 18 0x026 }
    ax := { t.ax with lvt := r 19, axis := q 20 0x021, tvt := r 21 }
    ring := { t.ring with mrbase := q 22 0x027, mrsize := q 23 0x028 }
    pipe := { t.pipe with irq := (r 4 ++ r 3 : BitVec 128), ebud := q 24 0x030 }
    v := Vector.ofFn fun i => BitVec.ofNat 512 (natOf ((ws.drop (45 + 8 * i.val)).take 8)) }
def threadWords : Nat := 173

/-! ### Engine state, commit queues, axes and horizons as words (R171)

Each piece is written as words and read back by replacing the words of the piece that the partition's record keeps; what is left over of the
words is passed on. -/

/-- The words that a list holds for some pieces, given to them in turn. -/
def fromWords {α : Type} (f : α → List Word → α × List Word) : List α → List Word → List α × List Word
  | [], ws => ([], ws)
  | x :: xs, ws =>
    let (y, ws1) := f x ws
    let (ys, ws2) := fromWords f xs ws1
    (y :: ys, ws2)

def Job.words (j : Job) : List Word :=
  [j.src, j.dst, j.list, j.chain, j.faultAt, BitVec.ofNat 64 j.done, BitVec.ofNat 64 (j.skip.toNat * 2 ^ 16 + j.status.toNat)]
def Job.ofWords (j : Job) (ws : List Word) : Job × List Word :=
  ({ j with src := recWord ws 0, dst := recWord ws 1, list := recWord ws 2, chain := recWord ws 3, faultAt := recWord ws 4
            done := (recWord ws 5).toNat, skip := (recWord ws 6).extractLsb' 16 16, status := (recWord ws 6).extractLsb' 0 8 }, ws.drop 7)

def Effect.words (e : Effect) : List Word := [e.id, e.vt, e.addr, e.value] ++ e.entry
def Effect.ofWords (e : Effect) (ws : List Word) : Effect × List Word :=
  ({ e with id := recWord ws 0, vt := recWord ws 1, addr := recWord ws 2, value := recWord ws 3, entry := (ws.drop 4).take e.entry.length },
   ws.drop (4 + e.entry.length))

/-- A core's results of jobs, its copy engine's turns and the jobs and commit entries given. -/
def Core.engineWords (c : Core) (js : List Job) (es : List Effect) : List Word :=
  [BitVec.ofNat 64 (c.rotation.toNat * 16 + c.copyTurn.toNat)] ++ c.results.map (·.2) ++ js.flatMap Job.words ++ es.flatMap Effect.words
def Core.ofEngineWords (c : Core) (js : List Job) (es : List Effect) (ws : List Word) : Core × List Job × List Effect :=
  let r : (BitVec 4 × Word) → List Word → (BitVec 4 × Word) × List Word := fun x ws => ((x.1, recWord ws 0), ws.drop 1)
  let (rs, ws1) := fromWords r c.results (ws.drop 1)
  let (ks, ws2) := fromWords Job.ofWords js ws1
  ({ c with rotation := (recWord ws 0).extractLsb' 4 4, copyTurn := (recWord ws 0).extractLsb' 0 4, results := rs },
   ks, (fromWords Effect.ofWords es ws2).1)

def Token.words (t : Token) : List Word := [t.pos, BitVec.ofNat 64 (t.flags.toNat * 2 ^ 32 + t.token.toNat)]
def Token.ofWords (_t : Token) (ws : List Word) : Token × List Word :=
  (⟨recWord ws 0, (recWord ws 1).setWidth 32, (recWord ws 1).extractLsb' 32 16⟩, ws.drop 2)

/-- A frame axis with its token retirement buffer and its frames. -/
def FrameAxis.words (a : FrameAxis) : List Word :=
  [a.published, BitVec.ofNat 64 a.window.toNat, a.retired.getD 0, a.hzn] ++ a.tokens.flatMap Token.words ++ a.frames.map (·.1)
def FrameAxis.ofWords (a : FrameAxis) (ws : List Word) : FrameAxis × List Word :=
  let (ts, ws1) := fromWords Token.ofWords a.tokens (ws.drop 4)
  let f : (Word × Bool) → List Word → (Word × Bool) × List Word := fun x ws => ((recWord ws 0, x.2), ws.drop 1)
  let (fs, ws2) := fromWords f a.frames ws1
  ({ a with published := recWord ws 0, window := (recWord ws 1).setWidth 9, retired := a.retired.map fun _ => recWord ws 2
            hzn := recWord ws 3, tokens := ts, frames := fs }, ws2)

/-- Where a core's engine state stands in its block, and the partition's own block after those of its cores. -/
def saveEngine : Nat := 0x205000
def savePartition (area : Word) : Word := area + BitVec.ofNat 64 (8192 * saveStride)

/-- The frame axes allotted to a partition. -/
def State.axesOf (s : State) (p : BitVec 6) : List FrameAxis := s.axes.filter (·.owner == some p)
/-- The partition's horizons, barrier counts and frame axes. -/
def State.partitionWords (s : State) (p : BitVec 6) : List Word :=
  (s.partOf p).hzn.toList ++ (s.partOf p).barcnt.toList ++ (s.axesOf p).flatMap FrameAxis.words
/-- They are written to its block, and read back from there. -/
def State.savePart (s : State) (ag : Agent) (area : Word) (p : BitVec 6) : State :=
  s.saveWords ag (savePartition area) (s.partitionWords p)
def State.loadPart (s : State) (ag : Agent) (area : Word) (p : BitVec 6) : State :=
  let ws := s.savedWords ag (savePartition area) (s.partitionWords p).length
  (((fromWords FrameAxis.ofWords (s.axesOf p) (ws.drop 128)).1).foldl State.putAxis s).updPart p fun x =>
    { x with hzn := Vector.ofFn fun i => recWord ws i.val, barcnt := Vector.ofFn fun i => recWord ws (64 + i.val) }

/-! ### A local memory's image (R168) -/

/-- A granule copied from place to place, with its full/empty bits and errors. -/
def State.copyGranuleOver (s : State) (a b : Place) : State :=
  let s1 := (s.clearPoison b.key 64).putBytes b 64 (s.bytesAt a 64)
  let s2 := (List.range 8).foldl (fun t k => t.setFull (b.key + 8 * k) (s.isFull (a.key + 8 * k))) s1
  ({ s2 with poison := s2.poison ++ (s.poison.filter fun k => a.key ≤ k && k < a.key + 64).map fun k => k - a.key + b.key } : State).tracedAt
    b 0 14 64

/-- The granules of a local memory. -/
def granules : List Nat := List.range (localBytes / 64)

/-- The local memory of core `c` written to `a` on, and read back from there. -/
def State.saveImage (s : State) (ag : Agent) (a : Word) (c : Cid) : State :=
  granules.foldl (fun s g => match resolve s ag .engineWrite 64 (a + BitVec.ofNat 64 (64 * g)) with
    | .ok pl => s.copyGranuleOver ((MapTarget.core c).place (64 * g)) pl
    | .error _ => s) s
def State.loadImage (s : State) (ag : Agent) (a : Word) (c : Cid) : State :=
  granules.foldl (fun s g => match resolve s ag .engineRead 64 (a + BitVec.ofNat 64 (64 * g)) with
    | .ok pl => s.copyGranuleOver pl ((MapTarget.core c).place (64 * g))
    | .error _ => s) s

end Sys2Proof.Machine
end

