-- ==== Sys2Proof/Machine/Preempt.lean ====
section
/-! DEFINITION. Pre-emption: the exchange with shadow storage (02_module.md R19), PREEMPT vacate and return (10_traps.md R168 to
R170), the full switch (R171), the checks of a restore (R172), the notice (R162), and the host's GO and STOP (R173; 18_host.md R292). -/
namespace Sys2Proof.Machine

/-! ### Exchanging memory (R19) -/

/-- Byte `k` with the regions of a local memory's size at `a` and `b` exchanged. -/
def exchangeKey (a b k : Nat) : Nat :=
  if a ≤ k && k < a + localBytes then k - a + b else if b ≤ k && k < b + localBytes then k - b + a else k

/-- The space in which byte `k` of a local memory or a shadow slice stands. -/
def spaceAt (k : Nat) (sp : Space) : Space :=
  if k < 2 ^ 50 then .loc (BitVec.ofNat 13 (k / localBytes))
  else if 2 ^ 53 ≤ k && k < 2 ^ 54 then .shadow (BitVec.ofNat 13 ((k - 2 ^ 53) / localBytes)) else sp

/-- A place, a pending result, a cause of parking and a thread with every byte number changed by `f`. -/
def Place.rekey (f : Nat → Nat) (pl : Place) : Place := { pl with key := f pl.key, space := spaceAt (f pl.key) pl.space }
def UnitWork.rekey (f : Nat → Nat) (u : UnitWork) : UnitWork :=
  { u with word := u.word.rekey f, places := u.places.map fun x => (x.1, x.2.rekey f) }
def PendState.rekey (f : Nat → Nat) : PendState → PendState
  | .full k take => .full (f k) take
  | .grant k => .grant (f k)
  | .unit u => .unit (u.rekey f)
  | st => st
def Park.rekey (f : Nat → Nat) : Park → Park
  | .full k => .full (f k)
  | p => p
def Thread.rekey (f : Nat → Nat) (t : Thread) : Thread :=
  { t with
    holding := t.holding.map f
    pipe := { t.pipe with park := t.pipe.park.map (·.rekey f), pend := t.pipe.pend.map fun p => { p with st := p.st.rekey f } } }
def Partition.rekey (f : Nat → Nat) (p : Partition) : Partition :=
  { p with save := p.save.map (·.rekey f) }

/-- The memory with byte `k` moved to `f k`. -/
def Mem.rekey (m : Mem) (f : Nat → Nat) : Mem := m.foldl (fun acc c => acc.write (f c.1) c.2) []

/-- Whoever holds a word, waits for it or names it, moved from byte `k` to `f k`. -/
def State.rekeyHolds (s : State) (f : Nat → Nat) : State :=
  { s with
    waiters := s.waiters.map fun w => { w with pl := w.pl.rekey f }
    held := s.held.map fun h => { h with key := f h.key }
    th := s.th.rekey f
    others := s.others.map (·.rekey f)
    part := s.part.rekey f
    parts := s.parts.map (·.rekey f) }

/-- Every byte, with what stands at it and whoever waits for it, moved to `f` of its number. -/
def State.rekey (s : State) (f : Nat → Nat) : State :=
  let core (c : Core) : Core := { c with icache := c.icache.map fun x => (f x.1, x.2) }
  { (s.eachCore core).rekeyHolds f with
    mem := s.mem.rekey f
    empties := s.empties.foldl (fun l k => insertKey l (f k)) []
    poison := s.poison.map f }

/-- The local memory of core `c` exchanged with its shadow slice, whose tags are written anew (R172); its port logs the granules, caused by no
core (06_ordering.md R102; log entry 67). -/
def State.exchangeShadow (s : State) (c : Cid) : State :=
  let slice := shadowKey c 0
  ({ s.rekey (exchangeKey (locKey c 0) slice) with
    badTags := s.badTags.filter fun k => !(slice ≤ k && k < slice + localBytes) } : State).traced c 0 14 0 localBytes

/-- While a full switch keeps the local memory of core `c` of partition `p` in the save area, the holds of its words, and what waits for
them, stand under byte numbers of no memory. -/
def outKey (p : BitVec 6) (c : Cid) : Nat := 2 ^ 57 + p.toNat * 2 ^ 34 + c.toNat * localBytes

/-- The region at `a` copied over the one at `b`; holds of its words move with it. -/
def State.copyRegion (s : State) (a b : Nat) : State :=
  let inA (k : Nat) : Bool := a ≤ k && k < a + localBytes
  let inB (k : Nat) : Bool := b ≤ k && k < b + localBytes
  { s.rekeyHolds (fun k => if inA k then k - a + b else k) with
    mem := (s.mem.filter (fun x => inA x.1)).foldl (fun m x => m.write (x.1 - a + b) x.2) (s.mem.filter fun x => !inB x.1)
    empties := (s.empties.filter inA).foldl (fun l k => insertKey l (k - a + b)) (s.empties.filter (!inB ·))
    poison := s.poison.filter (!inB ·) ++ (s.poison.filter inA).map (· - a + b)
    badTags := s.badTags.filter (!inB ·) }

/-! ### Stopping and draining (R168 step 1) -/

/-- A load that waits for its word to become full, into w0 (21 R351): no trap withdraws it, and a thread that leaves its slot issues it
again. -/
def Waiter.waitsForFull (w : Waiter) : Bool := (w.op = .ldf || w.op = .ldfe) && w.reg = 0

/-- The threads of the cores are stopped at an instruction boundary with their instructions done, apart from waits that can last without
bound, whose wakes are forwarded (R169). -/
def State.threadDrained (s : State) (t : Thread) : Bool :=
  !t.pipe.mmaWait && t.pipe.matrixWait.isNone && t.pipe.park != some .moving && !t.pipe.plainOut &&
  !s.waiters.any (fun w => w.owner == some t.tid && !w.withdrawable && !w.waitsForFull) &&
  t.pipe.pend.all (fun p => match p.st with
    | .value _ | .job _ | .collective _ => false
    | _ => true)

/-- The core's engine jobs are complete or faulted, and its queues are empty (R168). -/
def Core.drained (c : Core) : Bool :=
  c.jobs.all (fun j => j.st = .faulted) && c.vq = [] && c.mx.queue = [] && c.mx.run.isNone && c.cq.all (fun q => q.input.isNone)

/-- Every core given has drained. -/
def State.drained (s : State) (cs : List Cid) : Bool :=
  cs.all fun c => (s.coreOf c).drained && (s.coreThreads c).all s.threadDrained

/-- The threads of the cores stop issuing, and their results in hand are written. -/
def State.stopCores (s : State) (cs : List Cid) : State :=
  let s1 := cs.foldl (fun s c => s.updCore c fun x => { x with stopped := true }) s
  let f (t : Thread) : Thread := if t.active && cs.contains t.cid then t.writeBack else t
  { s1 with th := f s1.th, others := s1.others.map f }

/-! ### Moving and saving threads -/

/-- A holder, a request, a core's records and a thread with slot `old` renamed to `new`. -/
def Holder.rename (old new : Tid) : Holder → Holder
  | .thread t => .thread (if t = old then new else t)
  | h => h
def Thread.rename (old new : Tid) (t : Thread) : Thread :=
  { t with gang := t.gang.map fun g => (if g.1 = old then new else g.1, g.2) }
def Effect.rename (old new : Tid) (e : Effect) : Effect := if e.owner == old && e.saved.isNone then { e with owner := new } else e
def Waiter.rename (old new : Tid) (w : Waiter) : Waiter :=
  { w with
    owner := w.owner.map fun t => if t = old then new else t
    op := match w.op with
      | .effect e own keep => .effect (e.rename old new) own keep
      | .signal t => .signal (if t = old then new else t)
      | op => op }

/-- The jobs and effects of the thread in slot `old` leave its core for the core of `new`. -/
def State.moveRecords (s : State) (old new : Tid) : State :=
  let a := s.coreOf (tidCore old)
  let mine (e : Effect) : Bool := e.owner == old && e.saved.isNone
  let js := (a.jobs.filter (·.owner == old)).map fun j => { j with owner := new }
  let es := (a.commits.filter mine).map (·.rename old new)
  let s1 := s.putCore { a with jobs := a.jobs.filter (·.owner != old), commits := a.commits.filter (!mine ·) }
  s1.updCore (tidCore new) fun b => { b with jobs := b.jobs ++ js, commits := b.commits ++ es }

/-- The thread as it goes on in the slot whose record is `o`. The slot keeps what it has issued since the last refill (04_threads.md R66); a
displaced thread keeps its SEQ, and a home slot to which it comes back goes on from the greater of the two (log entry 24). -/
def Thread.standing (t o : Thread) : Thread :=
  { t with
    tid := o.tid
    ring := if t.home = o.tid then { t.ring with seq := if t.ring.seq < o.slotSeq then o.slotSeq else t.ring.seq }
            else { t.ring with under := o.slotSeq }
    pipe := { t.pipe with vecIssued := o.pipe.vecIssued, starved := o.pipe.starved } }

/-- The thread in slot `old` runs on in slot `new`, and everything that waits for it follows (R168 step 4, R169). -/
def State.moveThread (s : State) (old new : Tid) : State :=
  let t := s.thread old
  let s1 := (s.moveRecords old new).putThread t.vacated
  let s2 := s1.putThread (t.standing (s1.thread new))
  { s2 with
    th := s2.th.rename old new
    others := s2.others.map (Thread.rename old new)
    waiters := s2.waiters.map (Waiter.rename old new)
    held := s2.held.map fun h => { h with
      holder := h.holder.rename old new, queue := h.queue.map fun x => { x with holder := x.holder.rename old new } } }

/-- The thread as the save area keeps it: values in hand are written, and its waits are withdrawn, to be issued again when it runs. -/
def State.suspended (s : State) (t : Thread) : Thread :=
  let t1 := t.writeBack.unissued t.pipe.pend.length
  let waits := t1.pipe.pend.filter (·.st.withdrawable)
  let mk (p : Pending) : HeldAccess :=
    { heldWait p (waitInstr p) with addr := s.waiterAddr t.tid (p.reg.extractLsb' 0 4), phase := .due }
  let full := (s.waiters.filter fun w => w.owner == some t.tid && w.waitsForFull).map fun w =>
    (⟨if w.op = .ldfe then .ldfe 0 0 0 0 else .ldf 0 0 0 0, w.addr, 0, 0, true, 0, 0, 0, 0, w.seq, .due, 0, none⟩ : HeldAccess)
  { t1 with
    pipe := { t1.pipe with
      park := none
      turn := none
      record := none
      pend := t1.pipe.pend.filter (!·.st.withdrawable)
      held := (waits.map mk ++ full).foldl (fun hs h => insertHeld h hs) t1.pipe.held } }

/-- Holds and reservations of a slot pass to the saved thread, or back. -/
def Holder.save (p : BitVec 6) (t : Tid) (n : Nat) : Holder → Holder
  | .thread x => if x = t then .saved p n else .thread x
  | h => h
def Holder.restore (p : BitVec 6) (n : Nat) (new : Tid) : Holder → Holder
  | .saved q k => if q = p ∧ k = n then .thread new else .saved q k
  | h => h
/-- A slot's entries of the commit queue pass to the saved thread, or back. -/
def Effect.save (t : Tid) (n : Nat) (e : Effect) : Effect := if e.owner == t && e.saved.isNone then { e with saved := some n } else e
def Effect.isOf (p : BitVec 6) (n : Nat) (e : Effect) : Bool := e.part == p && e.saved == some n
def Effect.restore (p : BitVec 6) (n : Nat) (new : Tid) (e : Effect) : Effect :=
  if e.isOf p n then { e with owner := new, saved := none } else e
def WaitOp.mapEffect (f : Effect → Effect) : WaitOp → WaitOp
  | .effect e own keep => .effect (f e) own keep
  | op => op
/-- Every entry of a commit queue changed by `f`, where it waits at a memory too. -/
def State.mapEffects (s : State) (f : Effect → Effect) : State :=
  { s.eachCore (fun c => { c with commits := c.commits.map f }) with waiters := s.waiters.map fun w => { w with op := w.op.mapEffect f } }
def State.mapHolders (s : State) (f : Holder → Holder) : State :=
  { s with held := s.held.map fun h => { h with
    holder := f h.holder, queue := h.queue.map fun x => { x with holder := f x.holder } } }

/-- The thread `t` leaves its slot for the save area at `area`, which agent `ag` reaches, under a number of its own, with its faulted jobs; the
state is without it. -/
def State.takeOut (s : State) (ag : Agent) (area : Word) (t : Thread) : SavedThread × State :=
  let x := s.suspended t
  let n := s.nextId
  let s1 : State := { s with nextId := n + 1, waiters := s.waiters.filter fun w => w.owner != some t.tid }
  let s2 := ((s1.mapHolders (Holder.save t.part t.tid n)).mapEffects (Effect.save t.tid n)).updCore t.cid fun c =>
    { c with jobs := c.jobs.filter (·.owner != t.tid) }
  (⟨n, x, (s.coreOf t.cid).jobs.filter (·.owner == t.tid)⟩, (s2.vacate t).saveWords ag (x.saveAt area) x.words)

/-- The entries of saved thread `n` of partition `p` leave the commit queues where they stand for that of the core of `new`. -/
def State.bringEffects (s : State) (p : BitVec 6) (n : Nat) (new : Tid) : State :=
  let es := ((s.core :: s.cores).flatMap fun c => c.commits.filter (·.isOf p n)).map (Effect.restore p n new)
  ((s.eachCore fun c => { c with commits := c.commits.filter (!·.isOf p n) }).mapEffects (Effect.restore p n new)).updCore (tidCore new)
    fun c => { c with commits := c.commits ++ es }

/-- A saved thread placed in slot `new` with what is its own, its registers as the save area has them. What the horizon of its axis has
passed meanwhile is freed. -/
def State.putBack (s : State) (ag : Agent) (area : Word) (x : SavedThread) (new : Tid) : State :=
  let t := x.thread.ofWords (s.savedWords ag (x.thread.saveAt area) threadWords)
  let s1 := ((s.mapHolders (Holder.restore t.part x.num new)).bringEffects t.part x.num new).updCore (tidCore new) fun c =>
    { c with jobs := c.jobs ++ x.jobs.map fun j => { j with owner := new } }
  (s1.putThread (t.standing (s1.thread new))).catchUp new

/-! ### PREEMPT's arguments -/

/-- The logical rectangle of ARG1 (R292), in the layout of a descriptor's word 0. -/
def rectCores (rect : Word) : List (BitVec 7 × BitVec 6) := rectLogical (descOY [rect]) (descOX [rect]) (descHM1 [rect]) (descWM1 [rect])

/-- The rectangle has an odd origin or size, other bits, or does not lie in the partition (R292). -/
def rectBad (p : Partition) (rect : Word) : Bool :=
  !evenSize (descHM1 [rect]) (descWM1 [rect]) || bit (descOY [rect]) 0 || bit (descOX [rect]) 0 ||
  rect ≠ (field rect 30 24 ||| field rect 21 16 ||| field rect 12 6 ||| field rect 5 0) ||
  p.H < (descOY [rect]).toNat + (descHM1 [rect]).toNat + 1 || p.W < (descOX [rect]).toNat + (descWM1 [rect]).toNat + 1

/-- Bit 8 of ARG0 suppresses the notice; the other bits above the operation are zero. -/
def arg0Bad (op : Nat) (arg0 : Word) : Bool := bits arg0 1 0 ≠ op || bits arg0 7 2 ≠ 0 || bits arg0 63 9 ≠ 0

/-- The notice interrupt, source 1, of every thread that `pick` picks (R162). -/
def State.notice (s : State) (pick : Thread → Bool) : State :=
  ((s.activeThreads.filter pick).map (·.tid)).foldl (fun s t =>
    (s.updThread t fun x => { x with pipe := { x.pipe with irq := setBit x.pipe.irq 1 true } }).logArrival (tidCore t) 8 (tidSlot t)
      allOnes 1) s

/-- The command gives notice, and goes on 2,000,000 cycles later, unless ARG0 asks for none (R162, R292). -/
def afterNotice (q : BitVec 12) (arg0 : Word) (pick : Thread → Bool) (s : State) (body : State → Progress) : Progress :=
  let x := s.queueOf q
  if bit arg0 8 then body s
  else if !x.sent then .hold ((s.notice pick).updQueue q fun x => { x with sent := true, sentAt := s.cycle })
  else if s.cycle < x.sentAt + Config.noticeCycles then .hold s
  else body s

/-! ### Vacating (R168) -/

/-- The slot in which a displaced thread is placed: its home slot where its home core remains, else the lowest free slot of the first remaining
core, in row-major order, on which none of its faulted jobs' numbers is in use (log entry 24). -/
def State.placeFor (s : State) (p : Partition) (t : Thread) : Option Tid :=
  let nums := ((s.coreOf t.cid).jobs.filter (·.owner == t.tid)).map (·.num)
  ((s.homeSlot t).filter (fun h => tidCore h ≠ t.cid && !nums.any (fun n => ((s.coreOf (tidCore h)).job n).isSome))).or
  (p.logical.filterMap fun (y, x) => match p.target y x with
    | .core c =>
      if c = t.cid || (s.coreOf c).stopped || (s.coreOf c).testing.isSome || nums.any (fun n => ((s.coreOf c).job n).isSome) then none
      else s.freeSlot c
    | .shadow _ => none).head?

/-- A thread of a vacated core is placed elsewhere, or saved. -/
def State.displace (s : State) (ag : Agent) (area : Word) (p : BitVec 6) (t : Thread) : State :=
  match s.placeFor (s.partOf p) t with
  | some new => s.moveThread t.tid new
  | none =>
    let (x, s1) := s.takeOut ag area t
    s1.updPart p fun y => { y with save := { y.save with threads := y.save.threads ++ [x] } }

/-- What stays with a physical core whatever partition it serves: its debug state, the effects of others, and its counters. -/
def Core.emptied (c : Core) : Core :=
  { Core.initial c.cid with
    trace := c.trace, log := c.log, commits := c.commits, msent := c.msent, mrecv := c.mrecv, discarded := c.discarded
    refills := c.refills, last := c.last, issued := c.issued }

/-- Core `c` of partition `p` is vacated: steps 2 to 5 of R168. -/
def State.vacateCore (s : State) (ag : Agent) (area : Word) (p : BitVec 6) (y : BitVec 7) (x : BitVec 6) (c : Cid) : State :=
  let s1 := (s.coreThreads c).foldl (fun s t => s.displace ag area p t) s
  let kept := s1.coreOf c
  let s2 := ((s1.exchangeShadow c).saveWords ag (saveAt area y x saveMatrix) kept.mx.words).putCore
    { kept.emptied with shadowHolds := some p }
  (s2.updPart p fun z => { z with
    map := putBy (·.1 == (y ++ x : BitVec 13)) ((y ++ x : BitVec 13), .shadow c) z.map
    save := { z.save with cores := z.save.cores ++ [{ kept with stopped := false, commits := [] }] } }).remapped p [y ++ x]

/-- A part of the save area that the command needs for some logical cores is out of reach: the command ends with FAULTED and changes nothing
(log entry 74). -/
def State.saveFaults (s : State) (ag : Agent) (ac : Access) (area : Word) (ls : List (BitVec 7 × BitVec 6)) : Bool :=
  ls.any fun (y, x) => s.areaFaults ag ac (saveAt area y x saveMatrix) (saveEnd - saveMatrix)

/-- The physical cores that run some logical cores; none when one of them runs nowhere. -/
def State.runningCores (s : State) (p : Partition) : List (BitVec 7 × BitVec 6) → Option (List (BitVec 7 × BitVec 6 × Cid))
  | [] => some []
  | (y, x) :: ls =>
    match p.running y x, s.runningCores p ls with
    | some c, some cs => if (s.coreOf c).shadowHolds.isSome then none else some ((y, x, c) :: cs)
    | _, _ => none

/-- PREEMPT_VACATE (R168, R292): a core that is vacated already, or whose shadow slice holds a victim's memory, is not vacated. -/
def execPreemptVacate (q : BitVec 12) (done : Word) (tpart : BitVec 6) (arg0 rect save : Word) (s : State) : Result :=
  command q (.preemptVacate q done tpart arg0 rect save) (·.commandBad q true (some tpart) false) done s <| led fun s =>
    let p := s.partOf tpart
    let ag := s.partAgent (s.queueOf q).part
    if arg0Bad 0 arg0 || !p.live || p.state = 2 || rectBad p rect then s.finishCommand q done 5
    else
      match s.runningCores p (rectCores rect) with
      | none => s.finishCommand q done 5
      | some cs =>
        if s.saveFaults ag .engineWrite save (rectCores rect) then s.finishCommand q done 6 else
        let ids := cs.map (·.2.2)
        afterNotice q arg0 (fun t => t.part == tpart && ids.contains t.cid) s fun s =>
          let s1 := s.stopCores ids
          if !s1.drained ids then .hold s1
          else
            let s2 := cs.foldl (fun s (y, x, c) => s.vacateCore ag save tpart y x c) s1
            (s2.updPart tpart fun p => { p with save := { p.save with area := save } }).finishCommand q done 1

/-! ### Returning cores (R170) and the checks of a restore (R172) -/

/-- The error of a restore of the region at `a` that the record names: cause 2 for an uncorrectable word, 3 for a tag mismatch, with its offset.
DESIGN CHOICE (log entry 91): of several, an uncorrectable word before a mismatch, in the first core in row-major order. -/
def State.restoreError (s : State) (a : Nat) : Option (Byte × Nat) :=
  match s.poison.find? (fun k => a ≤ k && k < a + localBytes), s.badTags.find? (fun k => a ≤ k && k < a + localBytes) with
  | some k, _ => some (2, k - a)
  | none, some k => some (3, k - a)
  | none, none => none

/-- The partition fails at a restore (R172). -/
def State.failRestore (s : State) (p : BitVec 6) (c : Cid) (e : Byte × Nat) : State :=
  ((s.focusPart p).failPart e.1 0 (mkTid c 0) (BitVec.ofNat 64 e.2)).focusPart s.part.num

/-- The first error over some cores' regions. -/
def State.firstRestoreError (s : State) (region : Cid → Nat) : List Cid → Option (Cid × Byte × Nat)
  | [] => none
  | c :: cs =>
    match s.restoreError (region c) with
    | some e => some (c, e)
    | none => s.firstRestoreError region cs

/-- Single-bit errors that a restore of partition `p` meets are corrected and counted; how many there are is free (R172). -/
def State.correct (s : State) (p : BitVec 6) : State :=
  let (n, s1) := s.freeWord
  s1.updPart p fun x => { x with corrected := x.corrected + n }

/-- A displaced thread that waits at a matrix instruction may move home (R170 step 5): its home core is back, and it has settled (04_threads.md
R67 step 1). -/
def State.mayGoHome (s : State) (t : Thread) : Bool :=
  t.active && t.pipe.park == some .displaced && (s.homeSlot t).isSome && (s.focus t.tid).settled

/-- It moves home by the procedure of R67 (R170 step 5). -/
def State.moveHome (s : State) (t : Thread) : State :=
  match s.homeSlot t with
  | none => s
  | some h =>
    let s1 := (s.updThread t.tid Thread.writeBack).moveThread t.tid h
    s1.updThread h fun x =>
      { x.setSt tVDIRTY false with
        home := h
        v := Vector.replicate 16 0, m := #v[BitVec.allOnes 64, 0, 0, 0]
        pipe := { x.pipe with park := none
                              ebud := BitVec.ofNat 64 (bits (s1.coreOf x.cid).eallow 31 0 / (s1.coreThreads x.cid).length) } }

/-- Core `c` of logical (y, x) is given back to partition `p` (R170 steps 1 to 3). -/
def State.returnCore (s : State) (ag : Agent) (area : Word) (p : BitVec 6) (y : BitVec 7) (x : BitVec 6) (c : Cid) : State :=
  let now := s.coreOf c
  let old := ((s.partOf p).save.cores.find? (·.cid == c)).getD (Core.initial c)
  let mx := old.mx.ofWords (s.savedWords ag (saveAt area y x saveMatrix) matrixWords)
  let s1 := (s.exchangeShadow c).putCore
    { old with owner := some p, shadowHolds := none, trace := now.trace, log := now.log, commits := now.commits, mx := mx,
               msent := now.msent, mrecv := now.mrecv, discarded := now.discarded, tlb := [], icache := now.icache, mapCache := [],
               last := now.last, issued := now.issued }
  ((s1.updPart p fun z => { z with
    map := z.map.filter (·.1 != (y ++ x : BitVec 13)) ++ (if z.home y x = c then [] else [((y ++ x : BitVec 13), .core c)])
    save := { z.save with cores := z.save.cores.filter (·.cid != c) } }).remapped p [y ++ x]).correct p

/-- The saved threads whose home core is back are placed in their home slots (R170 step 4), but for one of whose faulted jobs the core has the
number in use (log entry 24). -/
def State.returnThreads (s : State) (ag : Agent) (area : Word) (p : BitVec 6) : State :=
  (s.partOf p).save.threads.foldl (fun s x => match s.homeSlot x.thread with
    | none => s
    | some h =>
      if x.jobs.any (fun j => ((s.coreOf (tidCore h)).job j.num).isSome) then s
      else (s.updPart p fun z => { z with save := { z.save with threads := z.save.threads.erase x } }).putBack ag area x h) s

/-- The vacated cores of a rectangle; none when one of them is not vacated. -/
def State.vacatedCores (s : State) (p : Partition) : List (BitVec 7 × BitVec 6) → Option (List (BitVec 7 × BitVec 6 × Cid))
  | [] => some []
  | (y, x) :: ls =>
    match p.target y x, s.vacatedCores p ls with
    | .shadow c, some cs => if (s.coreOf c).shadowHolds == some p.num && !s.modl.failing.contains c then some ((y, x, c) :: cs) else none
    | _, _ => none

/-- PREEMPT_RETURN (R170, R172, R292): NO_FIT while another partition runs on one of the cores. -/
def execPreemptReturn (q : BitVec 12) (done : Word) (tpart : BitVec 6) (rect save : Word) (s : State) : Result :=
  command q (.preemptReturn q done tpart rect save) (·.commandBad q true (some tpart) false) done s <| led fun s =>
    let p := s.partOf tpart
    let ag := s.partAgent (s.queueOf q).part
    if !p.live || p.state = 2 || rectBad p rect then s.finishCommand q done 5
    else
      match s.vacatedCores p (rectCores rect) with
      | none => s.finishCommand q done 5
      | some cs =>
        let ids := cs.map (·.2.2)
        if !s.allFree ids then s.finishCommand q done 3
        else if s.saveFaults ag .engineRead save (rectCores rect) then s.finishCommand q done 6
        else
          match s.firstRestoreError (fun c => shadowKey c 0) ids with
          | some (c, e) => (s.failRestore tpart c e).finishCommand q done 6
          | none =>
            let s1 := (cs.foldl (fun s (y, x, c) => s.returnCore ag save tpart y x c) s).returnThreads ag save tpart
            ((s1.activeThreads.filter s1.mayGoHome).foldl State.moveHome s1).finishCommand q done 1

/-! ### The full switch (R171) -/

/-- The cores that a partition owns. -/
def State.coresOf (s : State) (p : BitVec 6) : List Cid := (s.allCores.filter (·.owner == some p)).map (·.cid)

/-- The logical core whose memory or place core `c` has in partition `p`. -/
def Partition.logicalAt (p : Partition) (c : Cid) : BitVec 7 × BitVec 6 := (p.logical.find? fun (y, x) => p.physical y x = c).getD (0, 0)

/-- The partition's map names the shadow slice of core `c`, which fails (R177): its memory stands there already. -/
def Partition.onSlice (p : Partition) (c : Cid) : Bool := p.map.any (·.2 = .shadow c)

/-- A full switch keeps the local memory of core `c` of partition `p` in the save area: its shadow slice holds a victim's (R168). -/
def State.imaged (s : State) (p : BitVec 6) (c : Cid) : Bool := (s.coreOf c).shadowHolds.isSome && !(s.partOf p).onSlice c

/-- The holds of the words of core `c` leave with its memory for the save area, or come back with it. -/
def outMove (p : BitVec 6) (c : Cid) (k : Nat) : Nat :=
  if locKey c 0 ≤ k && k < locKey c 0 + localBytes then k - locKey c 0 + outKey p c
  else if outKey p c ≤ k && k < outKey p c + localBytes then k - outKey p c + locKey c 0 else k

/-- Core `c` of partition `p` is saved: its memory goes to its shadow slice, or to the save area where that slice holds a victim's
(R168), and its matrix context and engine state to the save area. -/
def State.saveCore (s : State) (ag : Agent) (area : Word) (p : BitVec 6) (c : Cid) : State :=
  let kept := s.coreOf c
  let (y, x) := (s.partOf p).logicalAt c
  let stays := (s.partOf p).onSlice c
  let other := s.imaged p c
  let s1 := if stays then s
    else if other then (s.saveImage ag (saveAt area y x 0) c).rekeyHolds (outMove p c) else s.exchangeShadow c
  let mine := kept.commits.filter (·.part == p)
  let s2 := (s1.saveWords ag (saveAt area y x saveMatrix) kept.mx.words).putCore { kept.emptied with
    commits := kept.commits.filter (·.part != p), shadowHolds := if other then kept.shadowHolds else some p }
  s2.updPart p fun z => { z with save := { z.save with outCores := z.save.outCores ++
    [{ kept with commits := mine, shadowHolds := if stays || other then kept.shadowHolds else none }] } }

/-- Every thread of the partition goes to the save area. -/
def State.saveThreads (s : State) (ag : Agent) (area : Word) (p : BitVec 6) : State :=
  (s.activeThreads.filter (·.part == p)).foldl (fun s t =>
    let (x, s1) := s.takeOut ag area t
    s1.updPart p fun y => { y with save := { y.save with outThreads := y.save.outThreads ++ [x] } }) s

/-- The jobs that the threads of core `c` of partition `p` have in the save area (R168). -/
def SaveArea.jobsOf (a : SaveArea) (c : Cid) : List Job := (a.outThreads.filter (·.thread.cid == c)).flatMap (·.jobs)
/-- The engine state of core `c`, as the save area keeps it, is written to its block, and read back from there (R171). -/
def State.saveEngineOf (s : State) (ag : Agent) (area : Word) (p : BitVec 6) (x : Core) : State :=
  let l := (s.partOf p).logicalAt x.cid
  s.saveWords ag (saveAt area l.1 l.2 saveEngine) (x.engineWords ((s.partOf p).save.jobsOf x.cid) x.commits)
def State.loadEngineOf (s : State) (ag : Agent) (area : Word) (p : BitVec 6) (x : Core) : State :=
  let l := (s.partOf p).logicalAt x.cid
  let a := (s.partOf p).save
  let js := a.jobsOf x.cid
  let (y, ks, es) := x.ofEngineWords js x.commits
    (s.savedWords ag (saveAt area l.1 l.2 saveEngine) (x.engineWords js x.commits).length)
  let mine (t : SavedThread) : SavedThread :=
    { t with jobs := (t.jobs.zip ((js.zip ks).filterMap fun k => if t.jobs.contains k.1 then some k.2 else none)).map (·.2) }
  s.updPart p fun z => { z with save := { z.save with
    outThreads := updBy (·.thread.cid == x.cid) mine z.save.outThreads
    outCores := updBy (·.cid == x.cid) (fun _ => { y with commits := es }) z.save.outCores } }

/-- A part of the save area that a full switch needs is out of reach. -/
def State.switchFaults (s : State) (ag : Agent) (ac : Access) (area : Word) (p : Partition) (cs : List Core) : Bool :=
  s.saveFaults ag ac area p.logical || s.areaFaults ag ac (savePartition area) (8 * (s.partitionWords p.num).length) ||
  cs.any fun c => c.shadowHolds.isSome && !p.onSlice c.cid &&
    (let l := p.logicalAt c.cid
     s.areaFaults ag ac (saveAt area l.1 l.2 0) localBytes)

/-- PREEMPT_SWITCH_OUT (R171, R292): gang stop, drain, and the whole partition to shadow storage and the save area. -/
def execPreemptSwitchOut (q : BitVec 12) (done : Word) (tpart : BitVec 6) (arg0 save : Word) (s : State) : Result :=
  command q (.preemptSwitchOut q done tpart arg0 save) (·.commandBad q true (some tpart) false) done s <| led fun s =>
    let p := s.partOf tpart
    let ag := s.partAgent (s.queueOf q).part
    if arg0Bad 1 arg0 || !p.live || p.state = 2 then s.finishCommand q done 5
    else if s.switchFaults ag .engineWrite save p ((s.coresOf tpart).map s.coreOf) then s.finishCommand q done 6
    else
      afterNotice q arg0 (fun t => t.part == tpart) s fun s =>
        let s1 := s.gangStop tpart
        let ids := s1.coresOf tpart
        if !s1.drained ids then .hold s1
        else
          let s2 := ids.foldl (fun s c => s.saveCore ag save tpart c) (s1.saveThreads ag save tpart)
          let s3 := ((s2.partOf tpart).save.outCores.foldl (fun s x => s.saveEngineOf ag save tpart x) s2).savePart ag save tpart
          (s3.updPart tpart fun p => { p with state := 2, save := { p.save with area := save } }).finishCommand q done 1

/-- A saved core restored (R171). -/
def State.restoreCore (s : State) (ag : Agent) (area : Word) (p : BitVec 6) (x : Core) : State :=
  let now := s.coreOf x.cid
  let l := (s.partOf p).logicalAt x.cid
  let mx := x.mx.ofWords (s.savedWords ag (saveAt area l.1 l.2 saveMatrix) matrixWords)
  let stays := (s.partOf p).onSlice x.cid
  let s1 := if stays then s
    else if now.shadowHolds == some p then s.exchangeShadow x.cid
    else (s.loadImage ag (saveAt area l.1 l.2 0) x.cid).rekeyHolds (outMove p x.cid)
  (s1.putCore { x with
    owner := some p, shadowHolds := if stays then some p else none, stopped := false, trace := now.trace, log := now.log, mx := mx
    commits := x.commits ++ now.commits, tlb := [], icache := now.icache, mapCache := [], last := now.last
    issued := now.issued }).correct p

/-- PREEMPT_SWITCH_IN (R292): NO_FIT while a core is another partition's or its shadow slice holds another's memory. -/
def execPreemptSwitchIn (q : BitVec 12) (done : Word) (tpart : BitVec 6) (save : Word) (s : State) : Result :=
  command q (.preemptSwitchIn q done tpart save) (·.commandBad q true (some tpart) false) done s <| led fun s =>
    let p := s.partOf tpart
    let ag := s.partAgent (s.queueOf q).part
    let ids := p.save.outCores.map (·.cid)
    if !p.live || p.state ≠ 2 then s.finishCommand q done 5
    else if ids.any (fun c => (s.coreOf c).owner.isSome || ((s.coreOf c).shadowHolds.isSome && (s.coreOf c).shadowHolds != some tpart)) then
      s.finishCommand q done 3
    else if s.switchFaults ag .engineRead save p p.save.outCores then s.finishCommand q done 6
    else
      match s.firstRestoreError (fun c => shadowKey c 0) (ids.filter fun c => (s.coreOf c).shadowHolds == some tpart && !p.onSlice c) with
      | some (c, e) => (s.failRestore tpart c e).finishCommand q done 6
      | none =>
        let s0 := (p.save.outCores.foldl (fun s x => s.loadEngineOf ag save tpart x) s).loadPart ag save tpart
        let a := (s0.partOf tpart).save
        let s1 := a.outCores.foldl (fun s x => s.restoreCore ag save tpart x) s0
        let s2 := a.outThreads.foldl (fun s x => s.putBack ag save x x.thread.tid) s1
        (s2.updPart tpart fun p => { p with
          state := 0, wdStart := s.cycle, save := { p.save with outThreads := [], outCores := [] } }).finishCommand q done 1

/-! ### GO and STOP (R292, R173) -/

/-- A halted partition runs again, its watchdog counting from here (R176). -/
def Partition.resumed (p : Partition) (cycle : Nat) : Partition :=
  if p.state = 1 then { p with state := 0, wdStart := cycle } else p

/-- GO (R292). -/
def execGo (p : BitVec 6) (s : State) : Result := .next (s.updPart p (·.resumed s.cycle))

/-- STOP (R292, R173). -/
def execStop (p : BitVec 6) (s : State) : Result := .next (s.gangStop p)

end Sys2Proof.Machine
end

