-- ==== Sys2Proof/Machine/Schedule.lean ====
section
/-! DEFINITION. The dispatcher: placing a launch (05_work.md R75), populating slots (R76, R77), the order of dispatch and aging (R78),
and completion (R79). -/
namespace Sys2Proof.Machine

/-! ### Placing (R75) -/

/-- A core of the partition runs here and is not held back from the front end (10_traps.md R177). -/
def State.offers (s : State) (p : Partition) (y : BitVec 7) (x : BitVec 6) : Option Cid :=
  match p.running y x with
  | some c => if (s.coreOf c).testing.isNone && !(s.coreOf c).stopped then some c else none
  | none => none

/-- The core of logical (y, x) has a free slot. -/
def State.hasFree (s : State) (p : Partition) (l : BitVec 7 × BitVec 6) : Bool :=
  match s.offers p l.1 l.2 with
  | some c => (s.freeSlot c).isSome
  | none => false

/-- Origins of a rectangle of `h` by `w` in the partition, in row-major order. -/
def origins (p : Partition) (h w : Nat) : List (BitVec 7 × BitVec 6) :=
  ((List.range (p.H + 1 - h)).map fun y => (List.range (p.W + 1 - w)).map fun x => (BitVec.ofNat 7 y, BitVec.ofNat 6 x)).flatten

/-- The rectangle that the launch has, or would take at its first dispatch: none while no origin qualifies. -/
def State.rectOf (s : State) (l : Launch) : Option (BitVec 7 × BitVec 6 × BitVec 7 × BitVec 6) :=
  let p := s.partOf l.part
  match l.placed with
  | some r => some r
  | none =>
    if recAny l.record then some (0, 0, p.hm1, p.wm1)
    else
      let hm1 := BitVec.ofNat 7 (recHM1 l.record)
      let wm1 := BitVec.ofNat 6 (recWM1 l.record)
      ((origins p (recHM1 l.record + 1) (recWM1 l.record + 1)).find? fun (y, x) =>
        (rectLogical y x hm1 wm1).all (s.hasFree p)).map fun (y, x) => (y, x, hm1, wm1)

/-! ### Choosing a core (R76) -/

/-- Threads of the launch on a core. -/
def State.launchOn (s : State) (l : Launch) (c : Cid) : Nat :=
  ((s.coreThreads c).filter (fun t => t.launch == some l.id)).length

/-- The core of logical (y, x) can take the launch's next identifier: it is not skipped (R77), has a free slot, and holds fewer threads than
the quota. -/
def State.takes (s : State) (l : Launch) (yx : BitVec 7 × BitVec 6) : Bool :=
  match s.offers (s.partOf l.part) yx.1 yx.2 with
  | none => false
  | some c =>
    let e := (l.extents yx.1 yx.2).2
    !(recSkip l.record && recShape l.record && (bits e 63 32 = 0 || bits e 31 0 = 0)) &&
    (s.freeSlot c).isSome && s.launchOn l c < recQuota l.record

/-- In the opening rounds, the next visit that gives an identifier, from place `i` of round `r` on: the round and the place. -/
def State.openingVisit (s : State) (l : Launch) (cores : List (BitVec 7 × BitVec 6)) : Nat → Nat → Nat → Option (Nat × Nat)
  | 0, _, _ => none
  | fuel + 1, r, i =>
    if recQuota l.record ≤ r then none
    else
      match (List.range cores.length).find? fun k => i ≤ k && ((cores[k]?).map (s.takes l)).getD false with
      | some k => some (r, k)
      | none => s.openingVisit l cores fuel (r + 1) 0

/-- The launch with its rectangle fixed, the logical core that takes its next identifier, and where its opening rounds then stand;
none when it is no candidate. -/
def State.candidateCore (s : State) (l : Launch) : Option (Launch × (BitVec 7 × BitVec 6)) :=
  if l.closing || recWord l.record 3 ≤ l.next then none
  else
    match s.rectOf l with
    | none => none
    | some r =>
      let k := { l with placed := some r }
      let cores := rectLogical r.1 r.2.1 r.2.2.1 r.2.2.2
      let visit := match l.opening with
        | some (a, b) => s.openingVisit k cores (recQuota l.record + 1) a b
        | none => none
      match visit with
      | some (a, b) => (cores[b]?).map fun c => ({ k with opening := some (a, b + 1) }, c)
      | none => (cores.find? (s.takes k)).map fun c => ({ k with opening := none }, c)

/-! ### Dispatch (R78) -/

/-- One launch is served before another: aged first, then by priority, then by arrival. DESIGN CHOICE (log entry 75): several aged
launches are served by arrival whatever their levels, the spec giving them no order. -/
def servedBefore (a b : Launch) : Bool :=
  if a.aged ≠ b.aged then a.aged
  else if recPrio a.record ≠ recPrio b.record && !a.aged then recPrio a.record < recPrio b.record
  else a.arrival < b.arrival || (a.arrival = b.arrival && a.id < b.id)

/-- The opening rounds of the launch have begun, and none of their remaining visits finds a core that takes an identifier. -/
def State.openingOver (s : State) (l : Launch) : Bool :=
  match l.opening, l.placed with
  | some (r, i), some (oy, ox, hm1, wm1) =>
    (s.openingVisit l (rectLogical oy ox hm1 wm1) (recQuota l.record + 1) r i).isNone
  | _, _ => false

/-- The opening rounds of partition `p`'s launches that are over end: a visit passes a core that takes nothing (R76). -/
def State.endOpenings (s : State) (p : BitVec 6) : State :=
  { s with launches := updBy (fun l => l.part == p && s.openingOver l) (fun l => { l with opening := none }) s.launches }

/-- The candidate that the dispatcher of a partition serves next. DESIGN CHOICE (log entry 76): no slot is populated while the partition does
not run. -/
def State.nextLaunch (s : State) (p : BitVec 6) : Option (Launch × (BitVec 7 × BitVec 6)) :=
  if (s.partOf p).state ≠ 0 then none
  else
    ((s.launches.filter (·.part == p)).filterMap s.candidateCore).foldl (fun best x => match best with
      | none => some x
      | some b => if servedBefore x.1 b.1 then some x else some b) none

/-- The launch's next identifier populates the lowest free slot of the core (R76, R77). -/
def State.populate (s : State) (l : Launch) (yx : BitVec 7 × BitVec 6) : State :=
  let p := s.partOf l.part
  match (s.offers p yx.1 yx.2).bind s.freeSlot with
  | none => s
  | some tid =>
    let k := { l with next := l.next + 1, lastPop := s.cycle, aged := false }
    { s.seat (l.thread p tid yx.1 yx.2 l.next) with launches := updBy (·.id == l.id) (fun _ => k) s.launches }

/-- SLOT_POPULATION (R76): one population of partition `p`. -/
def execSlotPopulation (p : BitVec 6) (s : State) : Result :=
  let s1 := s.endOpenings p
  .next (match s1.nextLaunch p with
    | some (l, yx) => (s1.populate l yx).endOpenings p
    | none => s1)

/-- The launch is to be marked as aged (R78). -/
def Launch.agingDue (l : Launch) (cycle : Nat) : Bool :=
  !l.aged && l.next < recWord l.record 3 && l.lastPop + Config.agingCycles ≤ cycle

/-- LAUNCH_AGING (R78). -/
def execLaunchAging (id : Half) (s : State) : Result :=
  .next { s with launches := updBy (fun l => l.id == id && l.agingDue s.cycle) (fun l => { l with aged := true }) s.launches }

/-- LAUNCH_COMPLETION (R79): the completion word receives DONE. -/
def execLaunchCompletion (id : Half) (s : State) : Result :=
  .next (match s.launches.find? (·.id == id) with
    | some l =>
      if s.launchDone l then
        ({ s with launches := s.launches.filter (·.id != id) }.complete (s.partAgent l.part) l.caller (recWord l.record 8) 1)
      else s
    | none => s)

end Sys2Proof.Machine
end

