-- ==== Sys2Proof/Machine/Timers.lean ====
section
/-! DEFINITION. Events of the barrel and its slots: the end of a YIELD (05_work.md R89), issue (04_threads.md R56), results (R57), parking (R69),
the watchdog (10_traps.md R176), timeouts (03_addresses.md R50; 15_time_axes.md R248), asynchronous causes (10_traps.md R160), and
interrupts (R162). -/
namespace Sys2Proof.Machine

/-- YIELD_EXPIRY (R89): the wait of a YIELD is over. -/
def execYieldExpiry (t : Tid) (s : State) : Result :=
  .next (if (s.thread t).pipe.yieldUntil ≤ s.cycle then
      s.updThread t fun x => { x with pipe := { x.pipe with yieldUntil := 0 } }
    else s)

/-- BARREL_ISSUE (R56): the first eligible slot of core `c` in rotation is selected, and the next step issues it. -/
def execBarrelIssue (c : Cid) (s : State) : Result :=
  .next (match s.nextSlot c with
    | some t => { s.select t with issueNow := true }
    | none => s)

/-- The result `p` of the current thread can come: a value in hand, a RECVV, or a unit's instruction whose word has been granted. -/
def State.mayCome (s : State) (p : Pending) : Bool :=
  match p.st with
  | .value _ | .message _ => true
  | .unit _ => s.unitReady p
  | _ => false

/-- RESULT_WRITEBACK (R57): the result pending in register `r` of slot `t` arrives: a value in hand is written, a RECVV takes its
message, a unit's instruction that has been granted its word runs. -/
def execResultWriteback (t : Tid) (r : BitVec 5) (s : State) : Result :=
  .next (match (s.thread t).pipe.pend.find? (fun p => p.reg = r && (s.focus t).mayCome p) with
    | some p =>
      match p.st with
      | .value x => s.updThread t (·.arrive r x)
      | .message _ => s.asThread t State.recvArrives
      | _ => s.asThread t (·.unitGranted p)
    | none => s)

/-- STORE_ACKNOWLEDGE (06_ordering.md R92): the thread's plain store is performed. -/
def execStoreAcknowledge (t : Tid) (s : State) : Result :=
  .next (s.updThread t fun x => { x with pipe := { x.pipe with plainOut := false } })

/-! ### Parking -/

/-- The thread is the first of those that wait for room in the retirement buffer of the axis, and none has been woken for it yet
(17_run_ahead.md R275). -/
def State.firstForTokens (s : State) (t : Thread) (axis : Nat) : Bool :=
  s.activeThreads.all fun x => x.pipe.turn ≠ some axis && (x.pipe.park != some (.tokens axis) || t.pipe.parkSeq ≤ x.pipe.parkSeq)

/-- The queue of the engine has room. -/
def Core.queueRoom (c : Core) (which : BitVec 2) : Bool :=
  match which with
  | 0 => !c.vectorFull
  | 1 => !c.copyFull
  | 2 => !c.matrixFull
  | _ => !c.collFull

/-- The cause for which the thread is parked has cleared (R69), so that its instruction executes again; a request that waits at a memory is
completed by the memory instead, and one at WFW by the item that it takes. A displaced thread's home is back (10_traps.md R169). -/
def State.wakeDue (s : State) (t : Thread) : Bool :=
  match t.pipe.park with
  | none | some (.full _) | some (.work _) | some .budget | some .moving => false
  | some .displaced => (s.homeSlot t).isSome
  | some .interrupt => t.st tIE && t.pipe.irq ≠ 0
  | some (.tokens n) =>
    let a := s.axisOf (BitVec.ofNat 14 n)
    a.tokens.length < a.window.toNat && s.firstForTokens t n
  | some (.horizon v) => !t.bound || v < s.hznOf t
  | some (.engineQueue n) => (s.coreOf t.cid).queueRoom n
  | some (.stack n) => n ≤ t.rw.free
  | some (.conflict ids) => !ids.any s.entryLives
  | some (.draining n) => !(s.axisOf (BitVec.ofNat 14 n)).draining
  | some .issue => true
  | some (.bar _ _) => (s.members t).all fun x => !s.barWaits x

/-- The thread rejoins the rotation at its instruction; one that waited for a retirement buffer keeps its place before those that come to
it later (17_run_ahead.md R275). -/
def Thread.woken (t : Thread) : Thread :=
  { t with pipe := { t.pipe with park := none, turn := match t.pipe.park with
    | some (.tokens n) => some n
    | _ => t.pipe.turn } }

/-- PARKED_THREAD_WAKE (R69): a thread whose cause has cleared rejoins the rotation, at its instruction. A displaced thread moves home
(10_traps.md R170). -/
def execParkedThreadWake (t : Tid) (s : State) : Result :=
  let x := s.thread t
  .next (if x.active && s.wakeDue x then
      match x.pipe.park with
      | some .displaced => if s.mayGoHome x then s.moveHome x else s.updThread t Thread.woken
      | _ => s.updThread t Thread.woken
    else s)

/-- WAIT_LIST_RESEND (03_addresses.md R47): the refused requests of the thread, and those of peers, whose 256 cycles are over are sent
again. -/
def execWaitListResend (t : Tid) (s : State) : Result :=
  .next (s.resendDue fun w => w.owner == some t || (w.owner.isNone && w.seq = 0))

/-! ### Timeouts and causes -/

/-- HOLD_TIMEOUT (R50): after 65,536 cycles of a hold the cause 0x0C becomes pending in its holder, once per hold. -/
def execHoldTimeout (t : Tid) (s : State) : Result :=
  .next (match s.held.find? (fun h => h.holder = .thread t && !h.timedOut && h.since + Config.holdTimeout ≤ s.cycle) with
    | some h =>
      ({ s with held := updBy (fun x => x == h) (fun x => { x with timedOut := true }) s.held }.postCause t
        (causeOf 0x0C (s.thread t).holdAddr))
    | none => s)

/-- An asynchronous cause, or a trap that waited for results, may be taken by the thread now: it is between instructions (R70, R160). -/
def State.boundary (s : State) (t : Thread) : Bool :=
  t.active && (s.partOf t.part).state = 0 && !t.pipe.mmaWait && t.pipe.matrixWait.isNone && t.pipe.park != some .moving &&
  !t.mustWait && !(s.coreOf t.cid).stopped

/-- ASYNC_TRAP_ENTRY (R160): the thread takes a trap that is due or its next asynchronous cause. -/
def execAsyncTrapEntry (t : Tid) (s : State) : Result :=
  .next (if s.boundary (s.thread t) then
      (s.keepStarved t).asThread t fun s =>
        match s.th.pipe.trapDue, s.th.asyncCause with
        | some c, _ => s.takeTrap c
        | none, some (c, x) => ({ s with th := x } : State).takeTrap c
        | none, none => s
    else s)

/-- The watchdog of the partition has reached its limit (R176). -/
def State.watchdogDue (s : State) (p : Partition) : Bool := p.live && p.state = 0 && p.wdLimit ≠ 0 && p.wdLimit.toNat ≤ p.wdCount s.cycle

/-- The watchdog cause 0x14 pending in a thread. -/
def Thread.watchdogCause (t : Thread) : Thread :=
  { t with pipe := { t.pipe with async := t.pipe.async ++ [causeOf 0x14 0] } }

/-- The first expiry: every thread of the partition receives cause 0x14 and the count restarts (R176). -/
def State.watchdogFirst (s : State) (p : BitVec 6) : State :=
  let f (t : Thread) : Thread := if t.active && t.part == p then t.watchdogCause else t
  ({ s with th := f s.th, others := s.others.map f } : State).updPart p fun x => { x with
    wdRun := 0, wdStart := s.cycle, wdOnce := true
    save := x.save.map Thread.watchdogCause }

/-- WATCHDOG_EXPIRY (R176): the first expiry, or with no STF since, FAILED with cause 4 at the core of logical (0, 0) (R164). -/
def execWatchdogExpiry (p : BitVec 6) (s : State) : Result :=
  .next (if s.watchdogDue (s.partOf p) then
      if (s.partOf p).wdOnce then
        ((s.focusPart p).failPart 4 0 (mkTid ((s.partOf p).physical 0 0) 0) 0).focusPart s.part.num
      else s.watchdogFirst p
    else s)

/-- The thread has been parked 65,536 cycles for stack room (15_time_axes.md R248). -/
def State.stackDue (s : State) (t : Thread) : Bool :=
  (match t.pipe.park with
   | some (.stack _) => true
   | _ => false) && t.pipe.parkedAt + Config.stackTimeout ≤ s.cycle && s.boundary t

/-- REWIND_STACK_FULL_TIMEOUT (R248): trap 0x0D with TVAL RSTK. -/
def execRewindStackFullTimeout (t : Tid) (s : State) : Result :=
  .next (if s.stackDue (s.thread t) then s.asThread t fun s => s.takeTrap (causeOf 0x0D s.th.rw.rstk) else s)

/-- INTR (R162): the host raises source 0 in the slot with the handle. -/
def execIntr (p : BitVec 6) (handle : Word) (s : State) : Result :=
  let raise (t : Thread) : Thread := { t with pipe := { t.pipe with irq := setBit t.pipe.irq 0 true } }
  .next (match s.byHandle p handle with
    | some t => if s.replays t.cid then s else (s.updThread t.tid raise).logArrival t.cid 8 t.slot allOnes 0
    | none => s.updSaved p handle raise)

/-- POSTED_STORE_COMPLETION (06_ordering.md R97): the thread's stores to host and peer memory are complete. -/
def execPostedStoreCompletion (t : Tid) (s : State) : Result :=
  .next (s.updThread t fun x => { x with pipe := { x.pipe with posted := 0, peerPosts := [] } })

end Sys2Proof.Machine
end

