-- ==== Sys2Proof/Machine/Horizon.lean ====
section
/-! DEFINITION. Horizon rounds of the reduced axes on the apex tree (15_time_axes.md R233, R234). -/
namespace Sys2Proof.Machine

/-- The thread waits at RECVV with no candidate message (R233, R240): its window is over, or its next window instruction waits in
issue (06_ordering.md R100). -/
def State.waitsAtRecv (s : State) (t : Thread) : Bool :=
  t.pipe.pend.any (fun p => (p.left = 0 || t.pipe.park = some .issue) && (match p.st with
    | .message _ => true
    | _ => false)) && (s.candidate t).isNone

/-- A bound thread's own contributions (R233): its LVT lowered to the target of its rollback event, nothing while it waits at RECVV without
a message or an event, and the VT of its open task. -/
def State.threadVts (s : State) (t : Thread) : List Word :=
  (match t.rollTarget with
   | some x => [if x < t.ax.lvt then x else t.ax.lvt]
   | none => if s.waitsAtRecv t then [] else [t.ax.lvt]) ++
  (if t.st tBOOST then [t.ax.tvt] else [])

/-- The VTs of the messages in the thread's ring that are UNPROC or DELIV. -/
def State.ringVts (s : State) (t : Thread) : List Word :=
  ((s.slots t).filter (fun m => hdrState m.2.2 ≤ 1)).map (·.2.1)

/-- The minimum of R233 for a reduced axis: none when the set is empty. -/
def State.reducedMin (s : State) (p : BitVec 6) (n : Nat) : Option Word :=
  least (((s.boundTo p n).map (fun t => s.threadVts t ++ s.ringVts t)).flatten ++ s.messageVts p n)

/-- The reduced axis has a bound thread. -/
def State.axisInUse (s : State) (p : BitVec 6) (ax : BitVec 6) : Bool := s.boundTo p ax.toNat ≠ []

/-- A round of the axis may start: none is open, 128 cycles have passed since the last start (R234), and the
partition is not switched out, when its horizons stand in the save area (10_traps.md R171). -/
def State.roundDue (s : State) (p ax : BitVec 6) : Bool :=
  let x := s.partOf p
  x.live && !s.away p && x.round.isNone && x.roundAt + Config.roundCycles ≤ s.cycle && s.axisInUse p ax

/-- HORIZON_ROUND_START (R234): every core samples its contributions. -/
def execHorizonRoundStart (p ax : BitVec 6) (s : State) : Result :=
  .next (if s.roundDue p ax then
      s.updPart p fun x => { x with round := some ⟨ax, s.reducedMin p ax.toNat⟩, roundAt := s.cycle, roundAxis := ax }
    else s)

/-- HORIZON_ROUND_CLOSE (R234): the horizon is the minimum of the samples and reports, never lower than before, and HZN is written in every
core. -/
def execHorizonRoundClose (p ax : BitVec 6) (s : State) : Result :=
  let x := s.partOf p
  .next (match x.round with
    | some r =>
      if r.axis = ax && !s.away p then
        let low := r.low.getD allOnes
        let old := x.hzn[ax.toNat]'ax.isLt
        if old < low then
          (s.updPart p fun x => { x with round := none, hzn := x.hzn.set ax.toNat low ax.isLt }).horizonMoved p ax.toNat
        else s.updPart p fun x => { x with round := none }
      else s
    | none => s)

/-- The reduced axis that the partition's next round serves: the first in use after the last one served (R234). -/
def State.nextRound (s : State) (p : Partition) : Option (BitVec 6) :=
  ((List.range 64).map (fun k => p.roundAxis + 1 + BitVec.ofNat 6 k)).find? (s.roundDue p.num)

end Sys2Proof.Machine
end

