-- ==== Sys2Proof/Machine/Mobility.lean ====
section
/-! DEFINITION. What travels between cores besides messages: moving threads (04_threads.md R67, R68) and levelled work (05_work.md R88);
and the caches of translations (03_addresses.md R42) and of the core map (R34). -/
namespace Sys2Proof.Machine

/-! ### Moving threads -/

/-- The logical core of the partition that physical core `c` runs. -/
def Partition.logicalOf (p : Partition) (c : Cid) : Option (BitVec 7 × BitVec 6) :=
  p.logical.find? fun (y, x) => p.target y x = .core c

/-- The packed thread as it stands in its new slot (R67): v and m as at population, VDIRTY clear, the causes and interrupts that reached its
reserved home slot with it. -/
def Thread.landed (t : Thread) (home : Thread) (slot : Tid) : Thread :=
  { t.setSt tVDIRTY false with
    tid := slot, home := slot
    v := Vector.replicate 16 0, m := #v[BitVec.allOnes 64, 0, 0, 0]
    pipe := { t.pipe with park := none, async := home.pipe.async, irq := home.pipe.irq } }

/-- The access that a thread carries is performed where it stands, without a further move; MIG's status is written. -/
def State.arriveWith (s : State) (m : Move) (st : Word) : State :=
  match m.access, m.statusReg with
  | some i, _ =>
    let roam := s.th.st tROAM
    match (match i with
      | .ld d a sz x imm l => execLd d a sz x imm l (s.mapTh (·.setSt tROAM false))
      | .lds d a sz x imm l => execLds d a sz x imm l (s.mapTh (·.setSt tROAM false))
      | .st d a sz x imm => execSt d a sz x imm (s.mapTh (·.setSt tROAM false))
      | _ => .next s) with
    | .next s1 => s1.mapTh (·.setSt tROAM roam)
    | _ => s
  | none, some d => ((s.mapTh Thread.tick).unitWrite d st).advance
  | none, none => s

/-- The moving thread takes slot `slot` of its target (R67 step 3): its access is made from its old logical core's view of addresses, and
then it is at the new core. -/
def State.land (s : State) (m : Move) (slot : Tid) : State :=
  let home := s.thread m.thread.tid
  let s1 := s.seat (m.thread.landed home slot)
  let yx := ((s1.partOf m.thread.part).logicalOf (tidCore slot)).getD (m.thread.ident.ly, m.thread.ident.lx)
  s1.asThread slot fun s =>
    (s.arriveWith m 0).mapTh fun t => { t with ident := { t.ident with ly := yx.1, lx := yx.2 } }

/-- Move `n` changed. -/
def State.setMove (s : State) (n : Nat) (m : Move) : State := { s with moves := s.moves.set n m }

/-- Something done where none of the traffic on its way stands before it. -/
def State.offPath (s : State) (f : State → State) : State :=
  { f { s with messages := [], transits := [], moves := [] } with messages := s.messages, transits := s.transits, moves := s.moves }

/-- Move `n` is sent back by its target, whose network interface makes the access that it carries (R67 step 4); none while that waits. -/
def State.sendBack (s : State) (n : Nat) (m : Move) : Option State :=
  let s1 := (s.setMove n { m with returned := true, sent := s.stamp }).stamped
  let hold (p : Option Park) (s : State) : State := s.updThread m.thread.tid fun x => { x with pipe := { x.pipe with park := p } }
  if m.access.isSome then
    let s2 := s1.offPath fun s => (hold none s).asThread m.thread.tid (·.arriveWith m 1)
    if (s2.thread m.thread.tid).pipe.park = some .issue then none else some (hold (some .moving) s2)
  else some s1

/-- Traffic that was sent before move `m` has still to arrive (02_module.md R26), or its target is in replay mode (10_traps.md R175). -/
def State.moveWaits (s : State) (m : Move) : Bool :=
  if m.returned then s.pathBusy m.target (tidCore m.thread.tid) m.sent else s.replays m.target || s.pathBusy (tidCore m.thread.tid) m.target m.sent

/-- The slot in which the target seats a moving thread. -/
def State.seatFor (s : State) (m : Move) : Option Tid :=
  let c := s.coreOf m.target
  if c.testing.isNone && !c.stopped && c.owner == some m.thread.part then s.freeSlot m.target else none

/-- Move `n` reaches its target, which seats the thread in its lowest free slot, or sends it back; none while it waits, for earlier traffic or
for what its access would wait for in issue. -/
def State.moveArrives (s : State) (n : Nat) (m : Move) : Option State :=
  if m.arrived.isSome || m.returned || s.moveWaits m then none
  else
    match s.seatFor m with
    | some slot =>
      let s1 := (s.setMove n { m with arrived := some slot }).land m slot
      if m.access.isSome && (s1.thread slot).pipe.park = some .issue then none else some s1
    | none => s.sendBack n m

/-- ROAM_MIGRATION_ARRIVAL (R67). -/
def execRoamMigrationArrival (n : Half) (s : State) : Result :=
  .next (((s.moves[n.toNat]?).bind (s.moveArrives n.toNat)).getD s)

/-- MOVE_CONFIRMATION (R67): the home slot is freed, or the returned thread goes on in it. DESIGN CHOICE (log entry 78): a thread that MIG
brings home keeps v, m and VDIRTY; they are discarded at an arrival elsewhere. -/
def execMoveConfirmation (n : Half) (s : State) : Result :=
  .next (match s.moves[n.toNat]? with
    | some m =>
      let s1 : State := { s with moves := s.moves.eraseIdx n.toNat }
      if m.arrived.isSome then s1.updThread m.thread.tid Thread.vacated
      else if m.returned && !s.moveWaits m then
        let s2 := s1.updThread m.thread.tid fun x => { x with pipe := { x.pipe with park := none } }
        if m.access.isSome then s2 else s2.asThread m.thread.tid (·.arriveWith m 1)
      else s
    | none => s)

/-! ### Levelling (R88) -/

/-- The core with the list of logical core `l` of partition `p`: what the save area keeps of a vacated core, whose memory stands in its
shadow slice (10_traps.md R168). -/
def State.listOf (s : State) (p : BitVec 6) (l : BitVec 13) : Core :=
  let q := s.partOf p
  match q.target (cidPY l) (cidPX l) with
  | .core c => s.coreOf c
  | .shadow c => (q.save.cores.find? (·.cid == c)).getD (s.coreOf c)

/-- It changed by `f`. -/
def State.updList (s : State) (p : BitVec 6) (l : BitVec 13) (f : Core → Core) : State :=
  let q := s.partOf p
  match q.target (cidPY l) (cidPX l) with
  | .core c => s.updCore c f
  | .shadow c =>
    if q.save.cores.any (·.cid == c) then
      s.updPart p fun q => { q with save := { q.save with cores := updBy (·.cid == c) f q.save.cores } }
    else s.updCore c f

/-- Byte `off` of the memory of logical core `l`. -/
def State.listPlace (s : State) (p : BitVec 6) (l : BitVec 13) (off : Nat) : Place := ((s.partOf p).target (cidPY l) (cidPX l)).place off

/-- The list takes part in levelling: it has a capacity (R86). -/
def Core.levels (c : Core) : Bool := c.wlCap ≠ 0

/-- The list takes another entry. DESIGN CHOICE (log entry 77): one whose region is bad takes none, the spec giving its entries no place. -/
def Core.wlRoom (c : Core) : Bool := c.levels && !c.wlBad && c.wlCount < c.wlCap

/-- The neighbours of logical (y, x) in the order of ties: +X, −X, +Y, −Y. -/
def neighbours (p : Partition) (y : BitVec 7) (x : BitVec 6) : List (BitVec 7 × BitVec 6) :=
  (if x.toNat + 1 < p.W then [(y, x + 1)] else []) ++ (if x ≠ 0 then [(y, x - 1)] else []) ++
  (if y.toNat + 1 < p.H then [(y + 1, x)] else []) ++ (if y ≠ 0 then [(y - 1, x)] else [])

/-- The neighbour with the least list, the first on a tie, among those with a list, and its length. -/
def State.leastNeighbour (s : State) (p : Partition) (y : BitVec 7) (x : BitVec 6) : Option (BitVec 13 × Nat) :=
  (neighbours p y x).foldl (fun best (ny, nx) =>
    let c := s.listOf p.num (ny ++ nx)
    if !c.levels then best
    else match best with
      | none => some (ny ++ nx, c.wlCount)
      | some b => if c.wlCount < b.2 then some (ny ++ nx, c.wlCount) else some b) none

/-- What a core sends at an interval: to whom, and how many entries. -/
def State.levelSend (s : State) (p : Partition) (y : BitVec 7) (x : BitVec 6) : Option (BitVec 13 × Nat) :=
  let c := s.listOf p.num (y ++ x)
  if !c.levels then none
  else
    match s.leastNeighbour p y x with
    | none => none
    | some (l, m) => if m + 8 ≤ c.wlCount then some (l, Nat.min 16 ((c.wlCount - m) / 2)) else none

/-- The oldest `k` entries of a list. -/
def State.oldest (s : State) (p : BitVec 6) (l : BitVec 13) (k : Nat) : List (Word × Word) :=
  (List.range k).map fun i =>
    let pl := s.listPlace p l ((s.listOf p l).wlSlot i)
    (s.wordAt pl, s.wordAt (pl.up 8))

/-- The entries leave the core. -/
def State.sendEntries (s : State) (p : BitVec 6) (l : BitVec 13) (dest : BitVec 13) (k : Nat) : State :=
  ({ s.updList p l (fun x => { x with wlHead := (x.wlHead + k) % x.wlCap, wlCount := x.wlCount - k }) with
    transits := s.transits ++ [(⟨p, dest, l, s.oldest p l k, false, s.stamp⟩ : Transit)] }).stamped

/-- The sends of every core of the partition, by the lengths sampled in one state. -/
def State.levelSends (s : State) (p : Partition) : List (BitVec 13 × BitVec 13 × Nat) :=
  p.logical.filterMap fun (y, x) => (s.levelSend p y x).map fun z => (y ++ x, z.1, z.2)

/-- The partition's levelling interval is over. DESIGN CHOICE (log entry 77): nothing is levelled while the partition does not run. -/
def State.levelDue (s : State) (p : Partition) : Bool :=
  p.live && p.state = 0 && p.level ≠ 0 && p.levelAt + p.level.toNat ≤ s.cycle

/-- LEVELLING_INTERVAL (R88): every core samples, and sends to its shortest neighbour. -/
def execLevellingInterval (p : BitVec 6) (s : State) : Result :=
  .next (if s.levelDue (s.partOf p) then
      ((s.levelSends (s.partOf p)).foldl (fun s z => s.sendEntries p z.1 z.2.1 z.2.2) s).updPart p fun x => { x with levelAt := s.cycle }
    else s)

/-- An entry appended as the newest of the list of logical core `l`; the trace ring charges it to slot 0 of the core that sent it (log
entry 77). -/
def State.appendAt (s : State) (p : BitVec 6) (l sender : BitVec 13) (e : Word × Word) : State :=
  let c := s.listOf p l
  (s.storeBy (s.listPlace p l (c.wlSlot c.wlCount)) (mkTid ((s.partOf p).physical (cidPY sender) (cidPX sender)) 0) allOnes 10 16
    (e.1.toNat + 2 ^ 64 * e.2.toNat)).updList p l fun x => { x with wlCount := x.wlCount + 1 }

/-- Entries appended to a list while it has room; those left over. -/
def appendAll (p : BitVec 6) (l sender : BitVec 13) : List (Word × Word) → State → List (Word × Word) × State
  | [], s => ([], s)
  | e :: es, s => if (s.listOf p l).wlRoom then appendAll p l sender es (s.appendAt p l sender e) else (e :: es, s)

/-- Levelled entries wait for traffic sent before them (02_module.md R26), and while their partition's memories stand elsewhere (10_traps.md
R171). -/
def State.transitWaits (s : State) (x : Transit) : Bool :=
  let q := s.partOf x.part
  q.state = 2 || s.replays (q.physical (cidPY x.dest) (cidPX x.dest)) || s.pathBusy (q.physical (cidPY x.back) (cidPX x.back)) (q.physical (cidPY x.dest) (cidPX x.dest)) x.sent

/-- LEVELLING_ARRIVAL (R88): entries in transit are appended; those beyond the capacity go back to their sender. -/
def execLevellingArrival (n : Half) (s : State) : Result :=
  .next (match s.transits[n.toNat]? with
    | some x =>
      if s.transitWaits x then s
      else
        let (rest, s1) := appendAll x.part x.dest x.back x.entries s
        let left : List Transit :=
          if rest = [] then [] else if x.returned then [{ x with entries := rest }] else [⟨x.part, x.back, x.dest, rest, true, s.stamp⟩]
        ({ s1 with transits := s1.transits.eraseIdx n.toNat ++ left } : State).stamped
    | none => s)

/-! ### Translations and the core map -/

/-- A translation installed in the core's 64 entries and the die's 16,384 (R42). -/
def State.install (s : State) (c : Cid) (e : TlbEntry) : State :=
  let s1 := s.updCore c fun x => { x with tlb := (e :: x.tlb.filter (· != e)).take 64 }
  let d := cidDie c
  { s1 with tlb2 := ((d, e) :: (s1.tlb2.filter (fun x => x.1 == d && x != (d, e))).take 16383) ++ s1.tlb2.filter (fun x => x.1 != d) }

/-- TLB_MISS_WALK (R42): a miss of thread `t` at `va` is resolved by the second-level TLB or by a walk, and installed. -/
def execTlbMissWalk (t : Tid) (va : Word) (s : State) : Result :=
  let c := tidCore t
  let p := s.partOf (s.thread t).part
  .next (if addrSpace va ≠ 2 || !addrMbz va then s
    else
      match translate s c p va with
      | .ok (leaf, level) => s.install c ⟨p.asid, va.extractLsb' 12 36, leaf, BitVec.ofNat 2 level⟩
      | .error _ => s)

/-- CORE_MAP_MISS_FILL (R34): the interface of core `c` caches the map entry of a logical core, 32 at most. -/
def execCoreMapMissFill (c : Cid) (lcoord : BitVec 13) (s : State) : Result :=
  .next (s.updCore c fun x => { x with mapCache := (lcoord :: x.mapCache.filter (· != lcoord)).take 32 })

end Sys2Proof.Machine
end

