-- ==== Sys2Proof/Machine/Peers.lean ====
section
/-! DEFINITION. Peer modules and their links (18_host.md R296, R297), and the host's window on HBM (R284; 06_ordering.md R98). -/
namespace Sys2Proof.Machine

/-! ### Accesses of peers (R296) -/

/-- The poster that a task of a peer names (R84, R296). -/
def peerPoster (m : BitVec 6) : Word := BitVec.ofNat 64 (2 ^ 63 + m.toNat)

/-- A discarded store is counted in LINKSTAT. DESIGN CHOICE (log entry 25): in its bits 63:32, the spec naming no field. -/
def State.countDiscard (s : State) : State :=
  { s with modl := { s.modl with linkstat := setBits s.modl.linkstat 63 32 (bits s.modl.linkstat 63 32 + 1) } }

/-- The place that peer `m` reaches at HBM address `phys`, under the key index that travels with its access (R296; 03_addresses.md R39). -/
def peerPlace (m : BitVec 6) (phys : Nat) (sp : Special) : Place := ⟨.hbm, hbmKey phys, phys, Config.peerKeyIndex m phys, sp⟩

/-- A peer's access at the doorbell alias: its STF posts a task, a store is discarded and counted, and any other gets an error. -/
def State.peerAlias (s : State) (m : BitVec 6) (op : BitVec 4) (phys : Nat) (v : Word) : State :=
  let q := aliasQuad phys
  if op = 4 then
    (s.post q ⟨none, peerPlace m phys (.doorbell q true), 8, 0, .stf, v.setWidth 512, 0, none, none, 0⟩ (peerPoster m)).2
  else if op = 1 then s.countDiscard
  else s.output (.peerError m)

/-- A HOLD by a peer: granted at once, or queued (03_addresses.md R48). -/
def State.peerHold (s : State) (m : BitVec 6) (pl : Place) : State :=
  match s.held.find? (·.key = pl.key) with
  | none => s.grantNext pl.key none [⟨.peer m, 0, pl.enc⟩]
  | some _ =>
    { s with held := updBy (fun h => decide (h.key = pl.key)) (fun h => { h with queue := h.queue ++ [⟨.peer m, 0, pl.enc⟩] }) s.held }

/-- A RELEASE by a peer that holds the word (R48). -/
def State.peerRelease (s : State) (m : BitVec 6) (pl : Place) (v : Word) : State :=
  if s.held.any fun h => h.key = pl.key && h.holder = .peer m then (s.storeBy pl 0 (peerPoster m) 14 8 v.toNat).endHold pl.key else s

/-- A peer's access to HBM (R296): 0 load, 1 store, 2 LDF, 3 LDFE, 4 STF, 5 STEF, 6 FETEST, 7 FESET, 8 HOLD, 9 RELEASE. -/
def State.peerAccess (s : State) (m : BitVec 6) (op : BitVec 4) (phys : BitVec 41) (n : Nat) (v : Word) : State :=
  let pl := peerPlace m phys.toNat .none
  let word := peerPlace m (phys.toNat / 8 * 8) .none
  if aliasBase ≤ phys.toNat then s.peerAlias m op phys.toNat v
  else
    match op.toNat with
    | 0 =>
      if (s.poisonIn pl.key n).isSome then s.output (.peerError m) else s.output (.peerReply m (BitVec.ofNat 64 (s.bytesAt pl n)))
    | 8 => s.peerHold m word
    | 9 => s.peerRelease m word v
    | k =>
      if k < 8 then
        s.request ⟨none, if k = 1 then pl else word, if k = 1 then n else 8, 0, .peer m op, v.setWidth 512, 0, none, none, 0⟩
      else s

/-- PEER_REQUEST_ARRIVAL (R296): nothing arrives before stage 2, or in minimal mode, where peers are disabled (R303). -/
def execPeerRequestArrival (mm : BitVec 6) (op : BitVec 4) (phys : BitVec 41) (sz : BitVec 2) (v : Word) (s : State) : Result :=
  .next (if bits s.modl.startStatus 3 0 = 2 then s.peerAccess mm op phys (2 ^ sz.toNat) v else s)

/-! ### Links (R297) -/

/-- A posted store of thread `t` is discarded: it leaves the list where it waits, or the peer's bytes and full/empty bit are what they
were before it (log entry 26). -/
def State.discardPost (s : State) (t : Tid) (x : Posted) : State :=
  match s.waiters.find? (fun w => w.owner == some t && w.pl.key = x.key && w.op.stores) with
  | some w => { s with waiters := s.waiters.erase w }
  | none => if x.size = 0 then s else (s.putBytes ⟨.peer x.peer, x.key, 0, x.enc, .none⟩ x.size x.old).setFull x.key x.full

/-- The posted stores of thread `t` that are queued on link `n`. -/
def Thread.postsOn (t : Thread) (n : BitVec 5) : List Posted := t.pipe.peerPosts.filter fun x => bit (Config.linksTo x.peer) n.toNat

/-- They leave the thread, whose FENCE system reports the first (log entry 26). -/
def Thread.dropPosts (t : Thread) (n : BitVec 5) : Thread :=
  { t with pipe := { t.pipe with
      peerPosts := t.pipe.peerPosts.filter fun x => !bit (Config.linksTo x.peer) n.toNat
      lost := t.pipe.lost.or ((t.postsOn n).head?.map (·.addr)) } }

/-- A posted store in its place among others, the latest first. -/
def insertPost (x : Tid × Posted) : List (Tid × Posted) → List (Tid × Posted)
  | [] => [x]
  | y :: ys => if y.2.order < x.2.order then x :: y :: ys else y :: insertPost x ys
/-- The posted stores of all threads that are queued on link `n`, the latest first. -/
def State.postsOn (s : State) (n : BitVec 5) : List (Tid × Posted) :=
  (s.threads.flatMap fun t => (t.postsOn n).map fun x => (t.tid, x)).foldl (fun l x => insertPost x l) []

/-- LINK_DOWN (R297): the link is marked down and the posted stores queued on it are discarded, the latest first. -/
def execLinkDown (n : BitVec 5) (s : State) : Result :=
  let s1 := (s.postsOn n).foldl (fun s x => s.discardPost x.1 x.2) s
  .next { s1 with
    th := s1.th.dropPosts n, others := s1.others.map (·.dropPosts n)
    modl := { s1.modl with linkstat := if n.toNat < 24 then setBit s1.modl.linkstat n.toNat true else s1.modl.linkstat } }

/-! ### The host's window (R284) -/

/-- The host's window offers the `n` bytes at HBM address `phys`: the module has started, they are no doorbell alias, and in minimal mode
they lie in die (0, 0)'s stacks (R303). -/
def State.bar2Open (s : State) (phys n : Nat) : Bool := s.started && phys + n ≤ aliasBase && !s.dieOff (phys / 2 ^ 37)

/-- HOST_BAR2_WRITE (R98): a store of 2^sz bytes into HBM by physical address, under key index 0 (R284). It waits behind a hold; the doorbell
window takes none. -/
def execHostBar2Write (off : BitVec 41) (sz : BitVec 2) (v : Word) (s : State) : Result :=
  let n := 2 ^ sz.toNat
  .next (if s.bar2Open off.toNat n then
      s.request ⟨none, hbmPlace off.toNat, n, 0, .store 14 sz, v.setWidth 512, 0, none, none, 0⟩
    else s)

/-- HOST_BAR2_READ (R98): the bytes at a physical address, under key index 0; where the window offers none, and on an error, the value is
open. -/
def execHostBar2Read (off : BitVec 41) (sz : BitVec 2) (s : State) : Result :=
  let n := 2 ^ sz.toNat
  let pl := hbmPlace off.toNat
  .next (if !s.bar2Open off.toNat n || (s.poisonIn pl.key n).isSome then
      let (x, s1) := s.freeWord
      s1.output (.hostRead x)
    else s.output (.hostRead (BitVec.ofNat 64 (s.bytesAt pl n))))

end Sys2Proof.Machine
end

