-- ==== Sys2Proof/Machine/Registers.lean ====
section
/-! DEFINITION. BAR0 (18_host.md R285): what the host reads of the module registers, queue descriptors, partition blocks, axis descriptors and
the debug window, and its writes to them (R286, R292, R294, R295; 00_scope.md R3). -/
namespace Sys2Proof.Machine

/-! ### What the host reads -/

/-- Word `n` of a partition's status record (10_traps.md R164). -/
def Partition.statusWord (p : Partition) (n : Nat) : Word :=
  match n with
  | 0 => BitVec.ofNat 64 (p.code.toNat * 2 ^ 16 + p.cause.toNat * 2 ^ 8 + p.state.toNat)
  | 1 => BitVec.ofNat 64 ((tidSlot p.place).toNat * 2 ^ 13 + (tidCore p.place).toNat)
  | 2 => p.val
  | _ => 0

/-- The core that the debug window shows (R295). -/
def Module.debugCore (m : Module) : Cid := m.dbgsel.extractLsb' 0 13

/-- What the core froze at its partition's halt, while that lasts (10_traps.md R173): MSENT, MRECV and ICNT of slots 0 to 7. -/
def State.frozenWords (s : State) (c : Core) : Option (List Word) :=
  if c.owner.any fun p => (s.partOf p).state ≠ 0 then c.frozen else none

/-- A word of the debug window. DESIGN CHOICE (log entry 82): a trace-ring entry that nothing has written since the ring was enabled reads
as 0. -/
def State.debugWord (s : State) (o : Nat) : Word :=
  let c := s.coreOf s.modl.debugCore
  let live := (s.frozenWords c).getD (s.snapshot c)
  if o = 0x000 then
    BitVec.ofNat 64 ((if c.trace.enabled then 1 else 0) + (if c.log.enabled then 2 else 0) + (if c.log.overflow then 4 else 0))
  else if o = 0x008 then c.log.region
  else if o = 0x010 then c.log.size
  else if o = 0x018 then live.getD 0 0
  else if o = 0x020 then live.getD 1 0
  else if o = 0x028 then c.discarded
  else if 0x040 ≤ o ∧ o < 0x080 then live.getD (2 + (o - 0x040) / 8) 0
  else if 0x400 ≤ o ∧ o < 0x800 then
    match c.trace.entries.find? (fun e => bits e.1 37 32 = (o - 0x400) / 16) with
    | some e => if (o - 0x400) / 8 % 2 = 0 then e.1 else e.2
    | none => 0
  else 0

/-- What the word at BAR0 offset `o` reads as: zero where nothing is listed (R285). -/
def State.register (s : State) (o : Nat) : Word :=
  if o % 8 ≠ 0 then 0
  else if o = 0x000000 then s.modl.startStatus
  else if o = 0x000008 then s.modl.fwlease
  else if o = 0x000010 then s.modl.dbgsel
  else if o = 0x000018 then s.modl.linkstat
  else if 0x020000 ≤ o ∧ o < 0x040000 then
    let q := s.queueOf (BitVec.ofNat 12 ((o - 0x020000) / 32))
    match (o / 8) % 4 with
    | 0 => q.word0
    | 1 => q.word1
    | 2 => zx q.cons
    | _ => 0
  else if 0x040000 ≤ o ∧ o < 0x050000 then
    let p := s.partOf (BitVec.ofNat 6 ((o - 0x040000) / 1024))
    let r := o % 1024
    if r < 0x020 then p.statusWord (r / 8)
    else if r = 0x028 then b2w p.brk
    else if r = 0x030 then p.erbase
    else if r = 0x038 then p.ertail
    else if r = 0x040 then zx p.erlog
    else if r = 0x048 then p.erhead
    else if r = 0x050 then b2w p.iport
    else 0
  else if 0x080800 ≤ o ∧ o < 0x100000 then
    let a := s.axisOf (BitVec.ofNat 14 ((o - 0x080000) / 32))
    match (o / 8) % 4 with
    | 0 => a.word0
    | 1 => a.base
    | 2 => a.tailAddr
    | _ => a.head
  else if 0x200000 ≤ o ∧ o < 0x201000 then s.debugWord (o - 0x200000)
  else 0

/-! ### What the host writes -/

/-- ERHEAD (R293). -/
def execErhead (p : BitVec 6) (v : Word) (s : State) : Result := .next (s.updPart p fun x => { x with erhead := v })

/-- Enabling a trace ring restarts its numbering (06_ordering.md R102). -/
def Trace.enable (t : Trace) (b : Bool) : Trace :=
  if b && !t.enabled then { enabled := true, seq := 0, entries := [] } else { t with enabled := b }

/-- Enabling receive logging restarts its records and its count of cycles (10_traps.md R174). -/
def RecvLog.enable (l : RecvLog) (b : Bool) : RecvLog :=
  if b && !l.enabled then { l with enabled := true, records := 0, cyc := 0 } else { l with enabled := b }

/-- TRACE_RING_ENABLE (R102). -/
def execTraceRingEnable (c : Cid) (s : State) : Result := .next (s.updCore c fun x => { x with trace := x.trace.enable true })

/-- RECEIVE_LOG_ENABLE (R174). -/
def execReceiveLogEnable (c : Cid) (s : State) : Result := .next (s.updCore c fun x => { x with log := x.log.enable true })

/-- A write in the debug window, to the core that DBGSEL selects (R295). -/
def State.writeDebug (s : State) (o : Nat) (v : Word) : State :=
  s.updCore s.modl.debugCore fun c =>
    if o = 0x000 then
      { c with trace := c.trace.enable (bit v 0)
               log := { c.log.enable (bit v 1) with overflow := c.log.overflow && !bit v 2 } }
    else if o = 0x008 then { c with log := { c.log with region := v } }
    else if o = 0x010 then { c with log := { c.log with size := v } }
    else c

/-- The state after an event that always answers a next state. -/
def resultState (s : State) : Result → State
  | .next s1 => s1
  | _ => s

/-- A write in a partition block (R292). -/
def State.writeBlock (s : State) (p : BitVec 6) (r : Nat) (v : Word) : State :=
  if r = 0x020 then resultState s (execIntr p v s)
  else if r = 0x028 then
    let s1 := s.updPart p fun x => { x with brk := bit v 0 }
    let s2 := if bit v 1 then resultState s1 (execStop p s1) else s1
    if bit v 2 then resultState s2 (execGo p s2) else s2
  else if r = 0x030 then s.updPart p fun x => { x with erbase := v }
  else if r = 0x038 then s.updPart p fun x => { x with ertail := v }
  else if r = 0x040 then s.updPart p fun x => { x with erlog := v.extractLsb' 0 5 }
  else if r = 0x048 then resultState s (execErhead p v s)
  else if r = 0x050 then s.updPart p fun x => { x with iport := bit v 0 }
  else s

/-- A write of word `k` of an axis descriptor (R294). -/
def State.writeAxis (s : State) (n : BitVec 14) (k : Nat) (v : Word) : State :=
  let a := s.axisOf n
  match k with
  | 0 => resultState s (execAxisDescriptorWord0Write n v s)
  | 1 => if s.descriptorOpen a then s.putAxis { a with base := v } else s
  | 2 => if s.descriptorOpen a then s.putAxis { a with tailAddr := v } else s
  | _ => resultState s (execAxisTokenRingHead n v s)

/-- A write of word `k` of a queue descriptor (R286): BASE is fixed while the queue runs. -/
def State.writeDescriptor (s : State) (q : BitVec 12) (k : Nat) (v : Word) : State :=
  match k with
  | 0 => s.updQueue q fun x => if x.en then x else { x with word0 := field v 63 6 }
  | 1 => s.updQueue q (·.writeWord1 v)
  | _ => s

/-- REGISTER_WRITE (R3, R285): the writable fields of the register at the offset take the value; unlisted offsets and read-only registers
ignore it. -/
def execRegisterWrite (off : BitVec 22) (v : Word) (s : State) : Result :=
  let o := off.toNat
  .next (if o % 8 ≠ 0 then s
    else if o = 0x000010 then { s with modl := { s.modl with dbgsel := field v 12 0 } }
    else if 0x020000 ≤ o ∧ o < 0x040000 then s.writeDescriptor (BitVec.ofNat 12 ((o - 0x020000) / 32)) ((o / 8) % 4) v
    else if 0x040000 ≤ o ∧ o < 0x050000 then s.writeBlock (BitVec.ofNat 6 ((o - 0x040000) / 1024)) (o % 1024) v
    else if 0x080000 ≤ o ∧ o < 0x100000 then s.writeAxis (BitVec.ofNat 14 ((o - 0x080000) / 32)) ((o / 8) % 4) v
    else if 0x200000 ≤ o ∧ o < 0x201000 then s.writeDebug (o - 0x200000) v
    else s)

end Sys2Proof.Machine
end

