-- ==== Sys2Proof/Machine/Management.lean ====
section
/-! DEFINITION. Firmware and management: throttling (02_module.md R29), in-field test and quad replacement (10_traps.md R177), the firmware
lease (18_host.md R298), PLDM and SPDM (R299, R300), the staged start (R301 to R303), and replay (10_traps.md R175). -/
namespace Sys2Proof.Machine

/-! ### Throttling -/

/-- POWER_THROTTLE (R29): issue cycles are withheld from every core of the dies given. Firmware orders it when the package nears
`Config.powerLimit` (18_host.md R301); the power drawn is not part of the model (log entry 80). -/
def execPowerThrottle (dies cycles : BitVec 16) (s : State) : Result :=
  let held : Vector Nat 16 := Vector.ofFn fun (i : Fin 16) =>
    if bit dies i.val then Nat.max s.modl.throttled[i] (s.cycle + cycles.toNat) else s.modl.throttled[i]
  .next { s with modl := { s.modl with throttled := held } }

/-! ### In-field test (R177) -/

/-- The core has no active slot and empty engine queues. -/
def State.coreIdle (s : State) (c : Cid) : Bool := s.coreThreads c = [] && (s.coreOf c).engineIdle

/-- IN_FIELD_TEST_START (R177): an idle core is marked busy and its memory goes to its shadow slice, which must hold nobody's. -/
def execInFieldTestStart (c : Cid) (s : State) : Result :=
  .next (if s.coreIdle c && (s.coreOf c).testing.isNone && (s.coreOf c).shadowHolds.isNone && !s.modl.failing.contains c then
      (s.exchangeShadow c).updCore c fun x => { x with testing := some s.cycle }
    else s)

/-- The end of a core's test with its memory exchanged back. -/
def State.endTest (s : State) (c : Cid) : State := (s.exchangeShadow c).updCore c fun x => { x with testing := none }

/-- A failing core is removed from its partition's map: its memory stays in its shadow slice, and it offers no slot (R177). -/
def State.failCore (s : State) (c : Cid) : State :=
  let x := s.coreOf c
  let s1 : State := { s.updCore c (fun x => { x with testing := none }) with
    modl := { s.modl with failing := s.modl.failing ++ [c], out := s.modl.out ++ [.management 0x10 (zx c)] } }
  match x.owner with
  | none => s1
  | some p =>
    match (s.partOf p).logicalOf c with
    | none => s1
    | some (ly, lx) =>
      ((s1.updCore c fun x => { x with shadowHolds := some p }).updPart p fun z => { z with
        map := putBy (·.1 == (ly ++ lx : BitVec 13)) ((ly ++ lx : BitVec 13), .shadow c) z.map }).remapped p [ly ++ lx]

/-- IN_FIELD_TEST_COMPLETE (R177): a core that passes has its memory back. -/
def execInFieldTestComplete (c : Cid) (pass : Bool) (s : State) : Result :=
  .next (if (s.coreOf c).testing.isNone then s else if pass then s.endTest c else s.failCore c)

/-- A priority-0 launch could be placed on core `c`, were it not under test (R177). -/
def State.wantsCore (s : State) (c : Cid) : Bool :=
  let s0 := s.updCore c fun x => { x with testing := none }
  (s.coreOf c).testing.isSome &&
  s.launches.any fun l =>
    recPrio l.record = 0 && !l.closing && l.next < recWord l.record 3 && (s.coreOf c).owner == some l.part &&
    (match s0.rectOf l, (s.partOf l.part).logicalOf c with
     | some r, some yx =>
       (rectLogical r.1 r.2.1 r.2.2.1 r.2.2.2).contains yx && s0.takes { l with placed := some r } yx
     | _, _ => false)

/-- IN_FIELD_TEST_ABORT (R177): the test of a core that a priority-0 launch could use ends, its memory exchanged back. -/
def execInFieldTestAbort (c : Cid) (s : State) : Result := .next (if s.wantsCore c then s.endTest c else s)

/-- The four cores of a quad, from the one at its even row and column. -/
def quadOf (c : Cid) : List Cid :=
  let y := cidPY c / 2 * 2
  let x := cidPX c / 2 * 2
  [mkCid y x, mkCid y (x + 1), mkCid (y + 1) x, mkCid (y + 1) (x + 1)]

/-- One core of a quad replaced by the one at the same place of a spare quad (R177). -/
def State.replaceCore (s : State) (a b : Cid) : State :=
  let x := s.coreOf a
  let fails := s.modl.failing.contains a
  let s1 := (s.copyRegion (if fails then shadowKey a 0 else locKey a 0) (locKey b 0)).traced b 0 14 0 localBytes
  match x.owner with
  | none => s1
  | some p =>
    let z := s1.partOf p
    let l := z.logical.find? fun (y, x) => z.target y x = (if fails then .shadow a else .core a)
    let s2 := s1.putCore { x with cid := b, owner := some p, shadowHolds := none, trace := (s1.coreOf b).trace, log := (s1.coreOf b).log,
                                  icache := [], tlb := [], jobs := [] }
    let s3 := s2.updCore a fun x => { x.emptied with shadowHolds := none }
    match l with
    | some (ly, lx) => (s3.updPart p fun z => { z with
        map := putBy (·.1 == (ly ++ lx : BitVec 13)) ((ly ++ lx : BitVec 13), .core b) z.map }).remapped p [ly ++ lx]
    | none => s3

/-- QUAD_REPLACEMENT (R177): once the quad of failing core `bad` is idle, the spare quad takes its place. -/
def execQuadReplacement (bad spare : Cid) (s : State) : Result :=
  let qa := quadOf bad
  let qb := quadOf spare
  .next (if s.modl.failing.contains bad && qa.all s.coreIdle && qa.all (fun c => (s.coreOf c).testing.isNone) &&
      s.modl.spares.contains ((qb.head?).getD spare) && s.allFree qb then
      let s1 := (qa.zip qb).foldl (fun s z => s.replaceCore z.1 z.2) s
      { s1 with modl := { s1.modl with
        spares := s1.modl.spares.filter (· != (qb.head?).getD spare)
        failing := s1.modl.failing.filter (!qa.contains ·)
        replaced := s1.modl.replaced ++ qa.zip qb } }
    else s)

/-! ### The lease (R298) -/

/-- The lease of leader `die` from nanosecond `now` on. -/
def leaseWord (die now : Nat) : Word := BitVec.ofNat 64 ((now + Config.leaseNs) * 2 ^ 8 + die % 16)
/-- The lowest-numbered die that passed its test, the leader apart: of the followers, which attempt the takeover in ascending order, the first
to succeed (R298). -/
def State.firstFollower (s : State) : Option (BitVec 4) :=
  ((List.range 16).map (BitVec.ofNat 4)).find? fun d => bit s.modl.startStatus (16 + d.toNat) && d.toNat ≠ bits s.modl.fwlease 3 0

/-- FWLEASE_RENEW (R298): the leader renews its lease for 10 ms. An expired lease is for the followers to take over; where none can, the leader
still leads and renews it (DESIGN CHOICE, log entry 81). -/
def execFwleaseRenew (s : State) : Result :=
  .next (if s.leaseOver && s.firstFollower.isSome then s
    else { s with modl := { s.modl with
      fwlease := leaseWord (bits s.modl.fwlease 3 0) ((s.cycle - s.modl.startedAt) / 2) } })

/-- FWLEASE_TAKEOVER (R298): after the expiry the first follower leads. A command in progress goes on from the step that its queue's entry in
State keeps, which stands for the journal in reserved SBM (log entry 81). -/
def execFwleaseTakeover (die : BitVec 4) (s : State) : Result :=
  .next (if s.leaseOver && s.firstFollower = some die then
      { s with modl := { s.modl with fwlease := leaseWord die.toNat ((s.cycle - s.modl.startedAt) / 2) } }
    else s)

/-! ### The staged start (R301 to R303) -/

def State.stage (s : State) : Nat := bits s.modl.startStatus 3 0
def State.fails (s : State) : Nat := bits s.modl.startStatus 7 4

/-- START_STATUS from its fields. -/
def startWord (dieOk reason fails stage : Nat) : Word := BitVec.ofNat 64 (dieOk * 2 ^ 16 + reason * 2 ^ 8 + fails * 2 ^ 4 + stage)

/-- The module as a reset leaves it: everything as at reset but the flash (FAILS, the images), what the host and peers hold, the cycle count
and the events under way; a pending compute image becomes active (R299, R303). -/
def State.restart (s : State) (status : Word) : State :=
  { State.reset with
    mem := s.mem.filter (fun x => 2 ^ 60 ≤ x.1 || (2 ^ 54 ≤ x.1 && x.1 < 2 ^ 57))
    keyed := s.keyed.filter (fun x => 2 ^ 54 ≤ 16 * x.1)
    cycle := s.cycle, nextId := s.nextId, freeCtr := s.freeCtr, inbox := s.inbox
    modl := { State.reset.modl with
      startStatus := status, startedAt := s.cycle, spares := Config.spareQuads, out := s.modl.out, mgmtImage := s.modl.mgmtImage
      computeImage := s.modl.pendingImage.getD s.modl.computeImage } }

/-- POWER_GOOD (R303): stage 0. -/
def execPowerGood (s : State) : Result := .next (s.restart (startWord 0 0 s.fails 0))

/-- STAGE_1_REACHED (R303): the dies are tested; DIEOK names those that passed. -/
def execStage1Reached (dieOk : BitVec 16) (s : State) : Result :=
  .next (if s.stage = 0 then
      { s with modl := { s.modl with startStatus := startWord dieOk.toNat (bits s.modl.startStatus 15 8) s.fails 1 } }
    else s)

/-- STAGE_2_REACHED (R303): full function, and FAILS is cleared. -/
def execStage2Reached (s : State) : Result :=
  .next (if s.stage = 1 then
      { s with modl := { s.modl with startStatus := startWord (bits s.modl.startStatus 31 16) (bits s.modl.startStatus 15 8) 0 2 } }
    else s)

/-- A start fails (R303): FAILS counts it and the module resets, into minimal mode at the third. -/
def State.failStart (s : State) (reason : Nat) : State :=
  let n := Nat.min 3 (s.fails + 1)
  if n = 3 then s.restart (startWord (bits s.modl.startStatus 31 16) reason 3 15) else s.restart (startWord 0 0 n 0)

/-- START_FAILURE (R303). -/
def execStartFailure (reason : Byte) (s : State) : Result := .next (if s.stage ≤ 1 then s.failStart reason.toNat else s)

/-- START_TIMEOUT (R302): stage 2 not reached within 30 s is reason 5. -/
def execStartTimeout (s : State) : Result :=
  .next (if s.stage ≤ 1 && s.modl.startedAt + Config.startCycles ≤ s.cycle then s.failStart 5 else s)

/-! ### Management requests (R299, R300) -/

/-- PLDM_PLATFORM_MONITORING (R299): rails and temperatures, which are free values (log entry 4), and the state of the links. -/
def execPldmPlatformMonitoring (s : State) : Result :=
  .next (({ s.output (.management 0 (Config.managementReply s.freeCtr)) with freeCtr := s.freeCtr + 1 } : State).output
    (.management 3 (zx (s.modl.linkstat.extractLsb' 0 24))))

/-- PLDM_FIRMWARE_UPDATE (R299): a verified compute image (component 0) waits in the inactive slot for the next reset, a verified
management image is live at once; a failed verification changes nothing and reports the failure. -/
def execPldmFirmwareUpdate (component : Bool) (image : Word) (verified : Bool) (s : State) : Result :=
  .next (if !verified then s.output (.management 2 1)
    else if component then { s with modl := { s.modl with mgmtImage := image, newImage := true } }.output (.management 2 0)
    else { s with modl := { s.modl with pendingImage := some image } }.output (.management 2 0))

/-- PLDM_RESET (R303): a reset; after a new image it sets FAILS to 0. -/
def execPldmReset (s : State) : Result :=
  .next (s.restart (startWord 0 0 (if s.modl.pendingImage.isSome || s.modl.newImage then 0 else s.fails) 0))

/-- SPDM_ATTESTATION (R299, R300): the measurements of both firmware images, of the configuration image and of the identity; a report whose
signature fails is not sent. -/
def execSpdmAttestation (s : State) : Result :=
  let s1 : State := { s with freeCtr := s.freeCtr + 1 }
  .next (if Config.reportSigned s.freeCtr then
      [Config.measurement s.modl.computeImage, Config.measurement s.modl.mgmtImage, Config.measurement Config.configImage,
        Config.deviceIdentity].foldl (fun s x => s.output (.management 1 x)) s1
    else s1)

/-! ### Replay (R175) -/

/-- A logged message's bytes written back into the slot's ring, after which the ring holds it. -/
def State.replayMessage (s : State) (t : Tid) (off : Nat) (ws : List Word) : State :=
  let x := s.thread t
  let n := slotBytes (hdrLen (recWord ws 1))
  let s1 := s.ringWrite x off (16 + 8 * hdrLen (recWord ws 1)) (ws.take (2 + hdrLen (recWord ws 1)))
  (s1.updThread t fun x => { x with ring := { x.ring with tail := x.ring.next off n, used := x.ring.used + n } }).updCore x.cid
    fun c => { c with mrecv := c.mrecv + 1 }

/-- A logged anti-message at the slot's ring: its message, found by its sender and VT since the record holds no SEQ, is gone if it was not
processed (15_time_axes.md R249; log entry 22). -/
def State.replayAnti (s : State) (t : Tid) (src vt : Word) : State :=
  let x := s.thread t
  match (s.slots x).find? fun y => hdrState y.2.2 = 0 && y.2.1 = vt && hdrSender y.2.2 = bits src 33 21 * 8 + bits src 2 0 with
  | some y => (s.setSlot x y.1 3).freeSlots t
  | none => s

/-- A logged write of the local memory of core `c` made again: the offset, the byte count and the bytes, or with a count of 0 the full/empty
bit (log entry 22). -/
def State.replayWrite (s : State) (c : Cid) (v : Word) (ws : List Word) : State :=
  let n := bits v 63 32
  let off := bits v 20 0
  if n = 0 then (s.setFull (locKey c off) (bit v 21)).waitListPass (locKey c off)
  else ({ s with mem := s.mem.writeN (locKey c off) n (natOf ws) } : State).traced c 0 14 off n

/-- A pending result that a unit or a register's reply ends. -/
def PendState.byUnit : PendState → Bool
  | .job _ | .barrier _ _ | .collective _ | .unit .. | .quiet => true
  | _ => false
/-- A pending result of LDF or LDFE, and of HOLD or FETEST. -/
def PendState.byWord : PendState → Bool
  | .full _ _ => true
  | _ => false
def PendState.byGrant : PendState → Bool
  | .grant _ => true
  | _ => false

/-- The thread is parked until a memory completes its instruction. -/
def Thread.parkedFull (t : Thread) : Bool :=
  match t.pipe.park with
  | some (.full _) => true
  | _ => false

/-- A delivered value goes to the first pending result of the slot that `p` picks; what waits at a memory for it leaves. -/
def State.deliverValue (s : State) (t : Tid) (v : Word) (p : PendState → Bool) : State :=
  match (s.thread t).pipe.pend.find? (fun q => p q.st) with
  | some q =>
    let s1 : State := { s with waiters := s.waiters.filter fun w => !(w.owner == some t && wReg w.reg == q.reg && w.withdrawable) }
    s1.updThread t (·.arrive q.reg (v.setWidth 512))
  | none => s

/-- A grant is delivered: the thread holds its word (03_addresses.md R48). -/
def State.deliverGrant (s : State) (t : Tid) (v : Word) : State :=
  let s1 := match (s.thread t).holding with
    | some k =>
      if s.held.any (·.key = k) then s else { s with held := s.held ++ [(⟨k, .thread t, s.cycle, false, []⟩ : HeldWord)] }
    | none => s
  s1.deliverValue t v PendState.byGrant

/-- A logged work-list entry or task goes to the thread parked at WFW. -/
def State.deliverItem (s : State) (t : Tid) (ws : List Word) : State :=
  s.updThread t fun x => (x.takeWork (x.workReg.getD 0) (recWord ws 4, recWord ws 5, recWord ws 6, recWord ws 7) (recWord ws 8)).finish

/-- The status of a MIG whose thread came home (04_threads.md R68). -/
def State.deliverMove (s : State) (t : Tid) (v : Word) : State :=
  let s1 := s.updThread t fun x => { x with pipe := { x.pipe with park := none } }
  match s1.nextInstr (s1.thread t) with
  | some (.mig d _) => s1.updThread t fun x => (x.wr d v).step4.counted
  | _ => s1

/-- The record's kind and slot. -/
def logKind (ws : List Word) : Nat := bits (recWord ws 0) 31 28
def logSlot (c : Cid) (ws : List Word) : Tid := mkTid c ((recWord ws 0).extractLsb' 25 3)

/-- The logged arrival is one that the network interface delivers now; any other is taken by the instruction that waits for it or reads it
(`State.incoming`). -/
def State.delivers (s : State) (c : Cid) (ws : List Word) : Bool :=
  let t := s.thread (logSlot c ws)
  let waits (p : PendState → Bool) : Bool := t.pipe.pend.any fun q => p q.st
  match logKind ws with
  | 0 | 1 | 7 | 8 | 13 => true
  | 2 => waits PendState.byWord || waits PendState.byGrant
  | 3 => waits PendState.byWord || t.parkedFull
  | 4 => waits PendState.byGrant
  | 9 => t.isWaitingWork
  | 10 => waits PendState.byUnit
  | 12 => waits PendState.byUnit || t.pipe.park == some .moving
  | _ => false

/-- A logged arrival delivered again: its kind, slot, source and value with the words of its continuation records (R174, R175). -/
def State.redeliver (s : State) (c : Cid) (ws : List Word) : State :=
  let t := logSlot c ws
  let v := recWord ws 3
  match logKind ws with
  | 0 => s.replayMessage t (bits v 20 0) (ws.drop 4)
  | 1 => s.replayAnti t (recWord ws 2) v
  | 2 => s.deliverValue t v fun st => st.byWord || st.byGrant
  | 3 => if (s.thread t).parkedFull then s.updThread t Thread.finish else s.deliverValue t v PendState.byWord
  | 4 => s.deliverGrant t v
  | 7 => s.updThread t (·.event v)
  | 8 => s.updThread t fun x => { x with pipe := { x.pipe with irq := setBit x.pipe.irq (v.toNat % 128) true } }
  | 9 => s.deliverItem t ws
  | 10 => s.deliverValue t v PendState.byUnit
  | 12 => if (s.thread t).pipe.park == some .moving then s.deliverMove t v else s.deliverValue t v PendState.byUnit
  | 13 => s.replayWrite c v (ws.drop 4)
  | _ => s

/-- The first logged arrival that is due and deliverable, and the others. -/
def State.nextDelivery (s : State) (c : Cid) : List (Word × List Word) → Option (List Word × List (Word × List Word))
  | [] => none
  | x :: xs =>
    if x.1 ≤ (s.coreOf c).log.cyc && s.delivers c x.2 then some (x.2, xs) else (s.nextDelivery c xs).map fun y => (y.1, x :: y.2)

/-- REPLAY_DELIVERY (R175): the core delivers the next logged arrival once its count of cycles has reached the logged one. -/
def execReplayDelivery (c : Cid) (s : State) : Result :=
  .next (match s.nextDelivery c (s.coreOf c).log.replay with
    | none => s
    | some (ws, rest) => (s.updCore c fun x => { x with log := { x.log with replay := rest } }).redeliver c ws)

end Sys2Proof.Machine
end

