-- ==== Sys2Proof/Machine/Internal.lean ====
section
/-! DEFINITION. The steps that the machine's units take of their own accord between issues, in the model's order (log entry 3): each is an
event of the opcode table, and `nextInternal` names the first one that is due. -/
namespace Sys2Proof.Machine

/-- The thread does not issue by itself now: it, or another member of its gang, is parked, waits for a result or is out of budget (R66), or it
follows a gang's leader. -/
def State.standsBy (s : State) (t : Thread) : Bool :=
  let stands (l x : Thread) : Bool := x.pipe.park.isSome || x.exhausted.isSome || s.outOfBudget l x
  match t.gang with
  | none => stands t t
  | some (l, _) => l != t.tid || (s.gangOf l).any (stands t)

/-! ### Threads -/

/-- A cause, an event or a timeout that a thread takes without issuing (04_threads.md R70). -/
def State.threadCause (s : State) (t : Thread) : Option Instr :=
  if s.boundary t && s.standsBy t && (t.pipe.trapDue.isSome || t.asyncCause.isSome) then some (.asyncTrapEntry t.tid)
  else if s.boundary t && s.standsBy t && t.eventDue.isSome then some (.rollbackEventVector t.tid)
  else if s.stackDue t then some (.rewindStackFullTimeout t.tid)
  else if s.held.any (fun h => h.holder = .thread t.tid && !h.timedOut && h.since + Config.holdTimeout ≤ s.cycle) then
    some (.holdTimeout t.tid)
  else none

/-- A pending result of the thread that arrives now. -/
def State.resultDue (s : State) (t : Thread) : Option Instr :=
  (t.pipe.pend.find? fun p => match p.st with
    | .value _ => p.left = 0
    | .message _ => (s.candidate t).isSome && (match t.pipe.park with
      | some (.stack n) => n ≤ t.rw.free
      | _ => true)
    | .unit _ => (s.focus t.tid).unitReady p
    | _ => false).map fun p => .resultWriteback t.tid p.reg

/-- What else goes on for a thread by itself. -/
def State.threadProgress (s : State) (t : Thread) : Option Instr :=
  if t.pipe.yieldUntil ≠ 0 && t.pipe.yieldUntil ≤ s.cycle then some (.yieldExpiry t.tid)
  else if t.pipe.pend.any (fun p => match p.st with
      | .barrier _ counted => !counted
      | _ => false) then some (.barrierArrival t.tid)
  else if t.pipe.plainOut then some (.storeAcknowledge t.tid)
  else if t.postsOut then some (.postedStoreCompletion t.tid)
  else none

/-! ### Engines of a core -/

/-- The head of the matrix queue may take effect (09_matrix_vector.md R144). -/
def State.matrixDue (s : State) (c : Core) : Bool :=
  match c.mx.queue with
  | [] => false
  | .mcfg .. :: _ => true
  | .mdup t addr :: _ => !s.rowStalled c.cid t addr false || (resolve s (s.thread t).agent .engineRead 128 addr).toOption.isNone
  | .mst t addr view _ row :: _ =>
    let ra := addr + BitVec.ofNat 64 (128 * row)
    c.mx.run.isNone && (if row = viewRows view then !s.writesWait t
      else !s.rowWaits c.cid t ra || (resolve s (s.thread t).agent .engineWrite 64 ra).toOption.isNone)
  | _ => c.mx.run.isNone

/-- The running job moves on: its next granule is skipped, or not behind a hold. -/
def State.granuleDue (s : State) (j : Job) : Bool :=
  j.st = .running && (!j.gather || j.sources.isSome) &&
  (j.sources.any (fun srcs => ((srcs[j.done / j.pgran]?).join).isNone) || match resolve s (s.thread j.owner).agent .engineWrite 64 (j.dst + BitVec.ofNat 64 (64 * j.done)) with
   | .ok pl => (s.heldByOther (some j.owner) pl.key 64).isNone
   | .error _ => true)

/-- A job of the core that goes on: one that may start, one whose walk is to come, or of those with a granule to move the next in rotation by
job number (11_engines.md R181). -/
def State.jobDue (s : State) (c : Core) : Option Instr :=
  (c.jobs.findSome? fun j =>
    if c.mayStart j then some (.copyJobStart c.cid j.num)
    else if j.st = .running && j.gather && j.sources.isNone then some (.gathWalk c.cid j.num)
    else none).or
  (((List.range 16).map fun k => c.copyTurn + 1 + BitVec.ofNat 4 k).findSome? fun n =>
    (c.job n).bind fun j => if s.granuleDue j then some (.copyGranule c.cid n) else none)

/-- The tag of a collective that goes on. -/
def State.collDue (s : State) (c : Core) : Option Instr :=
  (c.cq.find? fun q => (s.collLeaver q.tag).isSome || (s.collLost q.tag).isSome ||
    (let qs := s.participants q.tag
     collComplete qs && collLocal qs && !s.collBlocked qs)).map fun q => .collMatch q.tag

/-- The next passed effect of the core can be performed, or begun. -/
def State.effectDue (s : State) (c : Core) : Bool :=
  !s.effectOut c.cid && (match s.nextEffect c with
    | none => false
    | some e => match s.performEffect e false false with
      | .waits => false
      | _ => true)

/-- What a core's engines and units do next. What the engines of a core in replay mode did comes from its log (10_traps.md R175). -/
def State.engineDue (s : State) (c : Core) : Option Instr :=
  if c.vq ≠ [] then some (.vectorEngineStart c.cid)
  else if s.matrixDue c then some (.matrixQueueHead c.cid)
  else if s.unitTurn c.cid then some (.mmaStep c.cid)
  else if c.log.replay != [] then none
  else
    match s.jobDue c with
    | some e => some e
    | none =>
      match s.collDue c with
      | some e => some e
      | none =>
        if s.effectDue c then some (.deferredEffectPerform c.cid)
        else if s.refillDue c.cid && s.coreThreads c.cid ≠ [] then some (.energyRefill c.cid)
        else none

/-! ### The network -/

/-- What becomes of message `n` next. -/
def State.messageDue (s : State) (n : Nat) (m : Message) : Option Instr :=
  let k := BitVec.ofNat 32 n
  if s.away m.part then none else
  match m.st with
  | .flight => if s.firstFlight n m then some (if m.anti then .antiMessageArrival k else .messageArrival k) else none
  | .accepted => some (.messageAcknowledge k)
  | .refused at_ => if at_ + Config.resendCycles ≤ s.cycle && !s.behindRefused n m then some (.messageResend k) else none
  | .heldAtReceiver =>
    if m.anti && (match s.receiver m with
      | none => !s.savedReceiver m
      | some t => match s.positive t m with
        | none => true
        | some x => hdrState x.2.2 = 0) then some (.antiMessageArrival k)
    else none

/-- The first element of a list for which `f` names an event, with its place. -/
def firstDue {α : Type} (f : Nat → α → Option Instr) : Nat → List α → Option Instr
  | _, [] => none
  | n, x :: xs =>
    match f n x with
    | some e => some e
    | none => firstDue f (n + 1) xs

/-- A moving thread's next step. -/
def State.moveDue (s : State) (n : Nat) (m : Move) : Option Instr :=
  if m.arrived.isSome || (m.returned && !s.moveWaits m) then some (.moveConfirmation (BitVec.ofNat 32 n))
  else (s.moveArrives n m).map fun _ => .roamMigrationArrival (BitVec.ofNat 32 n)

/-- Levelled entries arrive, unless they came back to a full list. -/
def State.transitDue (s : State) (n : Nat) (x : Transit) : Option Instr :=
  if s.transitWaits x || (x.returned && !(s.listOf x.part x.dest).wlRoom) then none else some (.levellingArrival (BitVec.ofNat 32 n))

/-- The next event of a cascade may be sent. -/
def State.cascadeDue (s : State) (n : Nat) (e : CascadeEvent) : Option Instr :=
  if e.after.any s.entryLives then none else some (.directoryCascadeEvent (BitVec.ofNat 32 n))

/-- A frame axis retires a batch, or is reset. -/
def State.axisDue (s : State) (a : FrameAxis) : Option Instr :=
  if a.owner.any s.away then none
  else if a.batch a.published a.tokens ≠ [] then some (.tokenRetirementBatch a.num)
  else if s.resetDue a then some (.frameAxisReset a.num)
  else none

/-! ### Partitions and the front end -/

/-- What a partition's trees, timers and dispatcher do next. -/
def State.partitionDue (s : State) (p : Partition) : Option Instr :=
  if s.away p.num then none
  else if s.watchdogDue p then some (.watchdogExpiry p.num)
  else if s.spanDone p.num then some (.quiescenceSpanComplete p.num)
  else
    match p.round with
    | some r => some (.horizonRoundClose p.num r.axis)
    | none =>
      match s.nextRound p with
      | some ax => some (.horizonRoundStart p.num ax)
      | none =>
        if s.levelDue p then some (.levellingInterval p.num)
        else if (s.nextLaunch p.num).isSome || s.launches.any (fun l => l.part == p.num && s.openingOver l) then some (.slotPopulation p.num)
        else none

/-- A launch completes or ages. -/
def State.launchDue (s : State) (l : Launch) : Option Instr :=
  if s.launchDone l then some (.launchCompletion l.id) else if l.agingDue s.cycle then some (.launchAging l.id) else none

/-- The notice of a PREEMPT has been given its time (10_traps.md R162). -/
def State.noticeOver (s : State) (x : CmdQueue) (arg0 : Word) : Bool :=
  bit arg0 8 || !x.sent || x.sentAt + Config.noticeCycles ≤ s.cycle

/-- The command in progress goes on now. -/
def State.commandDue (s : State) (x : CmdQueue) : Instr → Bool
  | .waitCommand _ _ addr =>
    match resolve s (s.partAgent x.part) .feRead 8 addr with
    | .ok pl => s.isFull pl.key && (s.heldByOther none pl.key 8).isNone
    | .error _ => true
  | .signal _ _ _ _ =>
    !x.sent || !s.waiters.any (·.ofQueue x.num) || s.waiters.any (fun w => w.ofQueue x.num && (match w.retryAt with
      | some n => n ≤ s.cycle
      | none => false))
  | .partitionCreate .. | .partitionResize .. | .partitionSetLimits .. | .preemptReturn .. | .preemptSwitchIn .. => !s.leaseOver
  | .preemptVacate _ _ p arg0 rect _ =>
    !s.leaseOver && s.noticeOver x arg0 && (match s.runningCores (s.partOf p) (rectCores rect) with
      | some cs => cs.any (fun z => !(s.coreOf z.2.2).stopped) || s.drained (cs.map (·.2.2))
      | none => true)
  | .preemptSwitchOut _ _ p arg0 _ => !s.leaseOver && s.noticeOver x arg0 && ((s.partOf p).state = 0 || s.drained (s.coresOf p))
  | _ => true

/-- The firmware's lease is taken over when it has expired (renewed where no follower can), and renewed every 2 ms before
(18_host.md R298). -/
def State.leaseDue (s : State) : Option Instr :=
  if !s.started then none
  else if s.leaseOver then some (s.firstFollower.elim .fwleaseRenew .fwleaseTakeover)
  else if bits s.modl.fwlease 63 8 + Config.renewNs ≤ (s.cycle - s.modl.startedAt) / 2 + Config.leaseNs then some .fwleaseRenew else none

/-- What a queue does next. -/
def State.queueDue (s : State) (x : CmdQueue) : Option Instr :=
  match x.busy with
  | some i => if s.started && s.commandDue x i then some i else none
  | none =>
    if s.refetchDue x then some (.commandRecordRefetch x.num)
    else if s.mayFetch x && x.refetch = 0 then some (.commandFetch x.num)
    else none

/-- A front end's copy goes on. -/
def State.frontCopyDue (s : State) (c : FrontCopy) : Option Instr :=
  if s.copyHeld c then none else some (.copyCommand c.queue c.done c.dst c.src c.left)

/-- A refused request is due to be sent again (03_addresses.md R47). -/
def State.resendNext (s : State) : Option Instr :=
  (s.waiters.find? fun w => (w.owner.isSome || w.seq = 0) && (match w.retryAt with
    | some n => n ≤ s.cycle
    | none => false)).map fun w => .waitListResend (w.owner.getD 0)

/-! ### The next step -/

/-- Of the threads that wait in issue, the one that has waited longest. -/
def State.longestInIssue (s : State) : Option Thread :=
  (s.activeThreads.filter (·.inIssue)).foldl (fun b t => match b with
    | none => some t
    | some b => if t.pipe.parkedAt < b.pipe.parkedAt then some t else some b) none

/-- The sources of internal steps, in order. -/
def State.internals (s : State) : List (Unit → Option Instr) :=
  [fun _ => (s.allCores.find? fun c => (s.nextDelivery c.cid c.log.replay).isSome).map fun c => .replayDelivery c.cid,
   fun _ => s.activeThreads.findSome? s.threadCause,
   fun _ => s.activeThreads.findSome? s.resultDue,
   fun _ => s.activeThreads.findSome? s.threadProgress,
   fun _ => s.allCores.findSome? s.engineDue,
   fun _ => firstDue s.messageDue 0 s.messages,
   fun _ => firstDue s.cascadeDue 0 s.cascade,
   fun _ => s.axes.findSome? s.axisDue,
   fun _ => s.resendNext,
   fun _ => firstDue s.moveDue 0 s.moves,
   fun _ => firstDue s.transitDue 0 s.transits,
   fun _ => (s.part :: s.parts).findSome? s.partitionDue,
   fun _ => s.launches.findSome? s.launchDue,
   fun _ => (s.allCores.find? fun c => s.wantsCore c.cid).map fun c => .inFieldTestAbort c.cid,
   fun _ => s.leaseDue,
   fun _ => s.queues.findSome? s.queueDue,
   fun _ => s.copies.findSome? s.frontCopyDue,
   fun _ => (s.activeThreads.find? fun t => s.wakeDue t && !t.inIssue).map fun t => .parkedThreadWake t.tid,
   fun _ => s.longestInIssue.map fun t => .parkedThreadWake t.tid]

/-- The next step of the machine's own units, when one is due. -/
def nextInternal (s : State) : Option Instr := s.internals.findSome? fun f => f ()

end Sys2Proof.Machine
end

