-- ==== Sys2Proof/Machine/Alu.lean ====
section
/-! DEFINITION. The scalar instructions: the register ALU group (20 R317), the immediate group (R318), the shift-immediate
group (22 R372), LUI, LUIH and ADDPC (21 R352, 20 R319), and the multiply-divide group (20 R330, 07 R125). -/
namespace Sys2Proof.Machine

/-- w[d] := f w[a] w[b], written before the next issue (R317). -/
def alu3 (i : Instr) (d a b : Reg) (f : Word → Word → Word) (s : State) : Result :=
  simple i s (wRegs [d, a, b]) fun s => (s.wr d (f (s.rd a) (s.rd b))).advance

/-- w[d] := f w[a], written before the next issue (R317, R318, R372). -/
def alu2 (i : Instr) (d a : Reg) (f : Word → Word) (s : State) : Result :=
  simple i s (wRegs [d, a]) fun s => (s.wr d (f (s.rd a))).advance

/-- Leading zero bits, 64 for zero. -/
def clz64 (x : Word) : Word := if x = 0 then 64 else BitVec.ofNat 64 (63 - x.toNat.log2)
/-- Trailing zero bits, 64 for zero: the lowest set bit is x and -x. -/
def ctz64 (x : Word) : Word := if x = 0 then 64 else BitVec.ofNat 64 (x &&& -x).toNat.log2
/-- Set bits, counted from bit 0 up. -/
def popBits (x : Word) : Nat → Nat
  | 0 => 0
  | n + 1 => popBits x n + (if bit x n then 1 else 0)
def popc64 (x : Word) : Word := BitVec.ofNat 64 (popBits x 64)
/-- The shift amount of a register: bits 5:0 (R125). -/
def amount (x : Word) : Nat := bits x 5 0

/-- ADD (R317): w[d] := w[a] + w[b] modulo 2^64. -/
def execAdd (d a b : Reg) (s : State) : Result := alu3 (.add d a b) d a b (· + ·) s
/-- SUB (R317): w[d] := w[a] - w[b] modulo 2^64. -/
def execSub (d a b : Reg) (s : State) : Result := alu3 (.sub d a b) d a b (· - ·) s
/-- AND (R317). -/
def execAnd (d a b : Reg) (s : State) : Result := alu3 (.and d a b) d a b (· &&& ·) s
/-- OR (R317). -/
def execOr (d a b : Reg) (s : State) : Result := alu3 (.or d a b) d a b (· ||| ·) s
/-- XOR (R317). -/
def execXor (d a b : Reg) (s : State) : Result := alu3 (.xor d a b) d a b (· ^^^ ·) s
/-- SHL (R317): shifted left by bits 5:0 of w[b]. -/
def execShl (d a b : Reg) (s : State) : Result := alu3 (.shl d a b) d a b (fun x y => x <<< amount y) s
/-- SHR (R317): shifted right, zeros entering. -/
def execShr (d a b : Reg) (s : State) : Result := alu3 (.shr d a b) d a b (fun x y => x >>> amount y) s
/-- SRA (R317): shifted right, copies of bit 63 entering. -/
def execSra (d a b : Reg) (s : State) : Result := alu3 (.sra d a b) d a b (fun x y => x.sshiftRight (amount y)) s
/-- SLT (R317): 1 if w[a] < w[b] signed. -/
def execSlt (d a b : Reg) (s : State) : Result := alu3 (.slt d a b) d a b (fun x y => b2w (x.slt y)) s
/-- SLTU (R317): 1 if w[a] < w[b] unsigned. -/
def execSltu (d a b : Reg) (s : State) : Result := alu3 (.sltu d a b) d a b (fun x y => b2w (x.ult y)) s
/-- MIN (R317): the smaller, signed. -/
def execMin (d a b : Reg) (s : State) : Result := alu3 (.min d a b) d a b (fun x y => if y.slt x then y else x) s
/-- MAX (R317): the larger, signed. -/
def execMax (d a b : Reg) (s : State) : Result := alu3 (.max d a b) d a b (fun x y => if x.slt y then y else x) s
/-- CLZ (R317). -/
def execClz (d a : Reg) (s : State) : Result := alu2 (.clz d a) d a clz64 s
/-- CTZ (R317). -/
def execCtz (d a : Reg) (s : State) : Result := alu2 (.ctz d a) d a ctz64 s
/-- POPC (R317). -/
def execPopc (d a : Reg) (s : State) : Result := alu2 (.popc d a) d a popc64 s
/-- SEL (R317): w[a] if w[c] is not zero, else w[b]. -/
def execSel (d a b c : Reg) (s : State) : Result :=
  simple (.sel d a b c) s (wRegs [d, a, b, c]) fun s =>
    (s.wr d (if s.rd c ≠ 0 then s.rd a else s.rd b)).advance

/-- ADDI (R318): w[d] := w[a] + sx(imm18) modulo 2^64. -/
def execAddi (d a : Reg) (i : BitVec 18) (s : State) : Result := alu2 (.addi d a i) d a (· + sx i) s
/-- ANDI (R318). -/
def execAndi (d a : Reg) (i : BitVec 18) (s : State) : Result := alu2 (.andi d a i) d a (· &&& sx i) s
/-- ORI (R318). -/
def execOri (d a : Reg) (i : BitVec 18) (s : State) : Result := alu2 (.ori d a i) d a (· ||| sx i) s
/-- XORI (R318). -/
def execXori (d a : Reg) (i : BitVec 18) (s : State) : Result := alu2 (.xori d a i) d a (· ^^^ sx i) s
/-- SLTI (R318): 1 if w[a] < sx(imm18) signed. -/
def execSlti (d a : Reg) (i : BitVec 18) (s : State) : Result := alu2 (.slti d a i) d a (fun x => b2w (x.slt (sx i))) s

/-- SHLI (R372). -/
def execShli (d a : Reg) (n : BitVec 6) (s : State) : Result := alu2 (.shli d a n) d a (· <<< n.toNat) s
/-- SHRI (R372). -/
def execShri (d a : Reg) (n : BitVec 6) (s : State) : Result := alu2 (.shri d a n) d a (· >>> n.toNat) s
/-- SRAI (R372). -/
def execSrai (d a : Reg) (n : BitVec 6) (s : State) : Result := alu2 (.srai d a n) d a (fun x => x.sshiftRight n.toNat) s

/-- LUI (R352): w[d] := sx(imm22) << 18. -/
def execLui (d : Reg) (i : BitVec 22) (s : State) : Result :=
  simple (.lui d i) s (wRegs [d]) fun s => (s.wr d (sx i <<< 18)).advance
/-- LUIH (R352): bits 63:42 of w[d] replaced by imm22. -/
def execLuih (d : Reg) (i : BitVec 22) (s : State) : Result :=
  simple (.luih d i) s (wRegs [d]) fun s => (s.wr d (i ++ (s.rd d).extractLsb' 0 42)).advance
/-- ADDPC (R319): w[d] := pc + 4 sx(imm22). -/
def execAddpc (d : Reg) (i : BitVec 22) (s : State) : Result :=
  simple (.addpc d i) s (wRegs [d]) fun s => (s.wr d (s.th.pc + sx i <<< 2)).advance

/-! ### Multiply and divide (R330) -/

/-- w[d] := f w[a] w[b] under lookahead. -/
def muldiv (i : Instr) (d a b la : Reg) (f : Word → Word → Word) (s : State) : Result :=
  simple i s (wRegs [d, a, b]) fun s => (s.result d la (f (s.rd a) (s.rd b))).advance

/-- The quotients and remainders of R125. -/
def divS (x y : Word) : Word := if y = 0 then allOnes else x.sdiv y
def divU (x y : Word) : Word := if y = 0 then allOnes else x / y
def remS (x y : Word) : Word := if y = 0 then x else x.srem y
def remU (x y : Word) : Word := if y = 0 then x else x % y

/-- MUL (R330): the low 64 bits of the product. -/
def execMul (d a b l : Reg) (s : State) : Result := muldiv (.mul d a b l) d a b l (· * ·) s
/-- DIV (R330): the signed quotient rounded toward zero; all ones for a divisor of 0. -/
def execDiv (d a b l : Reg) (s : State) : Result := muldiv (.div d a b l) d a b l divS s
/-- DIVU (R330). -/
def execDivu (d a b l : Reg) (s : State) : Result := muldiv (.divu d a b l) d a b l divU s
/-- REM (R330): the remainder has the sign of w[a]; w[a] for a divisor of 0. -/
def execRem (d a b l : Reg) (s : State) : Result := muldiv (.rem d a b l) d a b l remS s
/-- REMU (R330). -/
def execRemu (d a b l : Reg) (s : State) : Result := muldiv (.remu d a b l) d a b l remU s

end Sys2Proof.Machine
end

