-- ==== Sys2Proof/Machine/Tasks.lean ====
section
/-! DEFINITION. Boosted tasks: ABOP (16_boosted_tasks.md R262 to R266; 20 R316), TBEGIN (R254; 22 R375) and TEND (R255; 22 R376). -/
namespace Sys2Proof.Machine

/-- The kinds that ABOP refuses (R263). -/
def kindRefused (k : Word) : Bool := 63 < k || k ≤ 1 || (3 ≤ k && k ≤ 7)

/-- A counter of kind 2: its word, or the cause (R264). -/
def State.counterPlace (s : State) (h : Word) : Except Cause Place :=
  if addrSpace h ≠ 1 then .error (causeOf 0x05 h) else resolve s s.th.agent .store 8 h

/-- The operation after a clear judgement: recorded, the counter added to, the inverse pushed (R263, R264). An add that finds its word held
waits at the memory with the entry recorded. DESIGN CHOICE (log entry 42): the add is traced as kind 0. -/
def abopRecord (d : Reg) (k : Nat) (h arg0 arg1 : Word) (row : Word × Word) (pl : Place) (s : State) : Effort :=
  match s.recordOp k h arg0 with
  | none => answer d 4 s
  | some s1 =>
    if k = 2 then
      if (s.heldByOther (some s.th.tid) pl.key 8).isSome then
        let made := (s1.dir.find? fun e => !s.dir.contains e).map (·.id)
        .parked ((s1.enlist (storeWaiter s1 pl h 8 (.count made) (arg0.setWidth 512) d none)).parkOn (.full pl.key))
      else if (s.poisonIn pl.key 8).isSome then .trapIn s (causeOf 0x0A h)
      else
        let s2 := s1.storeAt pl s.th.tid 0 8 (s.wordAt pl + arg0).toNat
        answer d 0 (s2.pushRecord 0 1 2 false false arg0 h)
    else answer d 0 (s1.pushRecord row.1 1 (bits row.2 5 0) false false arg0 arg1)

/-- The judgement of ABOP and what follows it (R263, R265). -/
def abopJudge (d : Reg) (k : Nat) (h arg0 arg1 : Word) (row : Word × Word) (pl : Place) (s : State) : Effort :=
  if s.th.rw.free = 0 then .parked (s.parkOn (.stack 1))
  else
    match s.judge k h arg0 with
    | .trapped s1 c => .trapIn s1 c
    | .givesWay s1 => .done s1.advance
    | .waits s1 ids => .parked (s1.parkOn (.conflict ids))
    | .clear s1 => abopRecord d k h arg0 arg1 row pl s1

/-- The effect of ABOP of kind `k` on object `h` with the arguments at `args` (R263). -/
def abopBody (d : Reg) (h args k : Word) (s : State) : Effort :=
  if !s.th.st tBOOST || s.th.st tUNW || s.th.st tSP then answer d 2 s
  else if kindRefused k then answer d 1 s
  else
    unitAccess 8 2 args s fun ps s =>
      let ws := pieceWords s 8 ps
      let n := k.toNat
      if n = 2 then
        match s.counterPlace h with
        | .error c => .trap c
        | .ok pl =>
          if s.stalled h 8 true then .parked (s.parkOn .issue) else abopJudge d 2 h (recWord ws 0) (recWord ws 1) (0, 0) pl s
      else if !s.part.tableOn then answer d 3 s
      else
        match s.kindRow n with
        | .error c => .trap c
        | .ok row =>
          if !bit row.2 63 || bits row.2 5 0 < 8 then answer d 3 s
          else abopJudge d n h (recWord ws 0) (recWord ws 1) row (s.ownPlace s.th 0) s

/-- ABOP (R262 to R266): declares an operation of kind w[c] on object w[a]. Illegal in a gang (R316). -/
def execAbop (d a b c : Reg) (s : State) : Result :=
  let i : Instr := .abop d a b c
  issue i s (if s.th.gang.isSome then some (illegal i) else none) (wRegs [d, a, b, c]) fun s =>
    afterPlain s (abopBody d (s.rd a) (s.rd b) (s.rd c))

/-- TBEGIN of VT `v` is illegal (R254, R375). -/
def Thread.taskIllegal (t : Thread) (v : Word) : Bool :=
  t.gang.isSome || t.st tSP || !t.bound || t.axisMode ≠ 0 || t.st tBOOST || t.st tUNW || bit v 0 || v ≤ t.ax.lvt

/-- The effect of TBEGIN (R254): steps 1 to 5. -/
def tbeginBody (v : Word) (s : State) : Effort :=
  match s.th.ax.waittag.filter s.entryLives with
  | some id => .parked (s.parkOn (.conflict [id]))
  | none =>
    if s.recvPending then .parked (s.parkOn .issue)
    else if s.th.rw.free < 5 then .parked (s.parkOn (.stack 5))
    else
      let s1 := s.mapTh fun t => { t with ax := { t.ax with waittag := none, lvt := v - 1 } }
      let s2 := s1.checkpoint s1.th.w s1.th.pc
      .done (s2.mapTh fun t => { t.setSt tBOOST true with ax := { t.ax with lvt := v, tvt := v } }).advance

/-- TBEGIN (R254): opens a task at VT w[a]. -/
def execTbegin (a : Reg) (s : State) : Result :=
  let i : Instr := .tbegin a
  issue i s (if s.th.taskIllegal (s.rd a) then some (illegal i) else none) (wRegs [a]) (tbeginBody (s.rd a))

/-- TEND (R255): the open task ends. -/
def execTend (s : State) : Result :=
  issue .tend s (if s.th.gang.isSome || !s.th.st tBOOST then some (illegal .tend) else none) [] fun s =>
    .done (s.mapTh fun t => { t.setSt tBOOST false with
      ax := { t.ax with lvt := if t.ax.lvt < t.ax.tvt + 1 then t.ax.tvt + 1 else t.ax.lvt } }).advance

end Sys2Proof.Machine
end

