-- ==== Sys2Proof/Machine/Text.lean ====
section
/-! DEFINITION. The text group: UTFB (17_run_ahead.md R282; 22 R381) and TRIE (17_run_ahead.md R283; 22 R379). -/
namespace Sys2Proof.Machine

/-! ### UTFB -/

/-- The input byte may continue the sequence that the state holds (R282). -/
def utfCont (s : Word) (x : Nat) : Bool :=
  let b := bits s 15 8
  0x80 ≤ x && x ≤ 0xBF &&
  (bits s 1 0 ≠ 1 ||
    ((b ≠ 0xE0 || 0xA0 ≤ x) && (b ≠ 0xED || x ≤ 0x9F) && (b ≠ 0xF0 || 0x90 ≤ x) && (b ≠ 0xF4 || x ≤ 0x8F)))

/-- The code point of the `l` bytes, the last one being the input. -/
def codePoint (s : Word) (l x : Nat) : Nat :=
  let b0 := bits s 15 8
  let b1 := bits s 23 16
  let b2 := bits s 31 24
  match l with
  | 2 => b0 % 32 * 64 + x % 64
  | 3 => b0 % 16 * 4096 + b1 % 64 * 64 + x % 64
  | _ => b0 % 8 * 262144 + b1 % 64 * 4096 + b2 % 64 * 64 + x % 64

/-- The result that holds no output, and a lead byte's state. -/
def utfNone : Word := BitVec.ofNat 64 (2 ^ 63)
def utfLead (x l : Nat) : Word := BitVec.ofNat 64 (x * 256 + (l - 1) * 4 + 1)

/-- The result and the new state (R282, R381). -/
def utfStep (state input : Word) : Word × Word :=
  let n := bits state 1 0
  let l := bits state 3 2 + 1
  let x := bits input 7 0
  let last := bit input 8
  let fl := bit state 4 || l ≤ n || (0 < n && l = 1)
  if 0 < n && (fl || last || !utfCont state x) then
    (BitVec.ofNat 64 (2 ^ 62 + 2 ^ 61 + bits state 15 8),
     if n = 1 then 0 else BitVec.ofNat 64 (bits state 31 16 * 256 + 16 + (l - 1) * 4 + (n - 1)))
  else if last then (utfNone, if n = 0 then 0 else state)
  else if 0 < n then
    if n + 1 = l then (BitVec.ofNat 64 (codePoint state l x), 0)
    else (utfNone, BitVec.ofNat 64 ((bits state 31 8 * 256 + (l - 1) * 4 + n + x * 2 ^ (8 + 8 * n) + 1) % 2 ^ 32))
  else if x ≤ 0x7F then (BitVec.ofNat 64 x, 0)
  else if 0xC2 ≤ x && x ≤ 0xDF then (utfNone, utfLead x 2)
  else if 0xE0 ≤ x && x ≤ 0xEF then (utfNone, utfLead x 3)
  else if 0xF0 ≤ x && x ≤ 0xF4 then (utfNone, utfLead x 4)
  else (BitVec.ofNat 64 (2 ^ 62 + x), 0)

/-- UTFB (R282): the state in w[a] takes the byte in w[b], and w[d] receives the result. -/
def execUtfb (d a b : Reg) (s : State) : Result :=
  simple (.utfb d a b) s (wRegs [d, a, b]) fun s =>
    let (r, st) := utfStep (s.rd a) (s.rd b)
    ((s.wr a st).wr d r).advance

/-! ### TRIE -/

/-- A word that TRIE reads: a plain access with its traps, all precise (R283, R379). -/
def trieRead (a : Word) (s : State) (f : Word → State → Effort) : Effort :=
  match s.reportAt a true with
  | some c => .trap c
  | none =>
    match resolve s s.th.agent .read 8 a with
    | .error c => .trap c
    | .ok pl =>
      if s.accessWaits false pl.key 8 || s.stalled a 8 false then .parked (s.parkOn .issue)
      else
        match dataError s pl a 8 with
        | some c => .trap c
        | none =>
          let (x, s1) := s.reply pl (s.wordAt pl)
          f x s1

/-- Word `n` of the trie at `t`. -/
def trieAt (t : Word) (n : Nat) : Word := t + BitVec.ofNat 64 (8 * n)

/-- Binary search of the edges `lo` to `hi - 1` of a node for a key: the child's offset, 0 for none (R283, R379). -/
def trieFind (t : Word) (node key : Nat) : Nat → Nat → Nat → State → (Nat → State → Effort) → Effort
  | 0, _, _, s, f => f 0 s
  | fuel + 1, lo, hi, s, f =>
    if hi ≤ lo then f 0 s
    else
      let mid := (lo + hi) / 2
      trieRead (trieAt t (node + mid)) s fun e s =>
        if bits e 63 42 = key then f (bits e 23 0) s
        else if bits e 63 42 < key then trieFind t node key fuel (mid + 1) hi s f
        else trieFind t node key fuel lo mid s f

/-- TRIE ends with the state and the result given. -/
def trieDone (d a : Reg) (st r : Word) (s : State) : Effort := .done ((s.wr a st).wr d r).advance

/-- emit(k): the token of the node BEST, with BACK `k` (R283); a token of all ones is none that fits (R379). -/
def trieEmit (d a : Reg) (t : Word) (best : Nat) (k : Word) (s : State) : Effort :=
  trieRead (trieAt t best) s fun w s =>
    if bits w 63 32 = 2 ^ 32 - 1 then trieDone d a 0 allOnes s
    else trieDone d a 0 (BitVec.ofNat 64 (2 ^ 62) + k <<< 40 + BitVec.ofNat 64 (bits w 63 32)) s

/-- No child of the node has the key (R283). -/
def trieMiss (d a : Reg) (t st sym : Word) (byteBase : Nat) (s : State) : Effort :=
  let depth := bits st 15 8
  let blen := bits st 7 0
  if depth = 0 && bit sym 62 then
    trieDone d a st (BitVec.ofNat 64 (2 ^ 62 + (byteBase + bits sym 20 0) % 2 ^ 32)) s
  else if depth = 0 || blen = 0 then trieDone d a 0 allOnes s
  else trieEmit d a t (bits st 39 16) (BitVec.ofNat 64 depth - BitVec.ofNat 64 blen + 1) s

/-- The step from `node` (R283). -/
def trieStep (d a : Reg) (t st sym : Word) (node byteBase : Nat) (s : State) : Effort :=
  let depth := bits st 15 8
  let key := (if bit sym 62 then 2 ^ 21 else 0) + bits sym 20 0
  trieRead (trieAt t node) s fun w s =>
    trieFind t node key 17 1 (bits w 15 0 + 1) s fun ch s =>
      if ch ≠ 0 && depth < 255 then
        trieRead (trieAt t ch) s fun cw s =>
          let token := bits cw 63 32 ≠ 2 ^ 32 - 1
          let best := if token then ch else bits st 39 16
          let blen := if token then depth + 1 else bits st 7 0
          trieDone d a (BitVec.ofNat 64 (ch * 2 ^ 40 + best * 2 ^ 16 + (depth + 1) * 2 ^ 8 + blen)) utfNone s
      else trieMiss d a t st sym byteBase s

/-- The effect of TRIE with state `st`, symbol `sym` and the trie at `t` (R283), once every prior plain access is performed (R379). -/
def trieBody (d a : Reg) (st sym t : Word) (s : State) : Effort :=
  let depth := bits st 15 8
  afterPlain s fun s =>
    if bit sym 63 then .done (s.wr d utfNone).advance
    else if bit sym 60 then
      if depth = 0 then .done (s.wr d utfNone).advance
      else trieEmit d a t (bits st 39 16) (BitVec.ofNat 64 depth - BitVec.ofNat 64 (bits st 7 0)) s
    else if 0 < depth then trieStep d a t st sym (bits st 63 40) 0 s
    else trieRead t s fun h s => trieStep d a t st sym (bits h 23 0) (bits h 63 32) s

/-- TRIE (R283): the state in w[a] takes the symbol in w[b] in the trie at w[c], and w[d] receives the result. -/
def execTrie (d a b c : Reg) (s : State) : Result :=
  issue (.trie d a b c) s none (wRegs [d, a, b, c]) fun s => trieBody d a (s.rd a) (s.rd b) (s.rd c) s

end Sys2Proof.Machine
end

