-- ==== Sys2Proof/Machine/Dispatch.lean ====
section
/-! DEFINITION. The meaning of every step: one arm for each row of spec/opcode_table.json. -/
namespace Sys2Proof.Machine

def exec (i : Instr) (s : State) : Host.Outcome State Fault Refusal :=
  match i with
  | .add d a b => Sys2Proof.Machine.execAdd d a b s
  | .sub d a b => Sys2Proof.Machine.execSub d a b s
  | .and d a b => Sys2Proof.Machine.execAnd d a b s
  | .or d a b => Sys2Proof.Machine.execOr d a b s
  | .xor d a b => Sys2Proof.Machine.execXor d a b s
  | .shl d a b => Sys2Proof.Machine.execShl d a b s
  | .shr d a b => Sys2Proof.Machine.execShr d a b s
  | .sra d a b => Sys2Proof.Machine.execSra d a b s
  | .slt d a b => Sys2Proof.Machine.execSlt d a b s
  | .sltu d a b => Sys2Proof.Machine.execSltu d a b s
  | .min d a b => Sys2Proof.Machine.execMin d a b s
  | .max d a b => Sys2Proof.Machine.execMax d a b s
  | .clz d a => Sys2Proof.Machine.execClz d a s
  | .ctz d a => Sys2Proof.Machine.execCtz d a s
  | .popc d a => Sys2Proof.Machine.execPopc d a s
  | .sel d a b c => Sys2Proof.Machine.execSel d a b c s
  | .addi d a im => Sys2Proof.Machine.execAddi d a im s
  | .andi d a im => Sys2Proof.Machine.execAndi d a im s
  | .ori d a im => Sys2Proof.Machine.execOri d a im s
  | .xori d a im => Sys2Proof.Machine.execXori d a im s
  | .slti d a im => Sys2Proof.Machine.execSlti d a im s
  | .shli d a sz => Sys2Proof.Machine.execShli d a sz s
  | .shri d a sz => Sys2Proof.Machine.execShri d a sz s
  | .srai d a sz => Sys2Proof.Machine.execSrai d a sz s
  | .lui d im => Sys2Proof.Machine.execLui d im s
  | .luih d im => Sys2Proof.Machine.execLuih d im s
  | .addpc d im => Sys2Proof.Machine.execAddpc d im s
  | .mul d a b l => Sys2Proof.Machine.execMul d a b l s
  | .div d a b l => Sys2Proof.Machine.execDiv d a b l s
  | .divu d a b l => Sys2Proof.Machine.execDivu d a b l s
  | .rem d a b l => Sys2Proof.Machine.execRem d a b l s
  | .remu d a b l => Sys2Proof.Machine.execRemu d a b l s
  | .beq a b o => Sys2Proof.Machine.execBeq a b o s
  | .bne a b o => Sys2Proof.Machine.execBne a b o s
  | .blt a b o => Sys2Proof.Machine.execBlt a b o s
  | .bge a b o => Sys2Proof.Machine.execBge a b o s
  | .bltu a b o => Sys2Proof.Machine.execBltu a b o s
  | .bgeu a b o => Sys2Proof.Machine.execBgeu a b o s
  | .bany a b o => Sys2Proof.Machine.execBany a b o s
  | .bnone a b o => Sys2Proof.Machine.execBnone a b o s
  | .jal d o => Sys2Proof.Machine.execJal d o s
  | .jalr d a im => Sys2Proof.Machine.execJalr d a im s
  | .rpt n l d a b => Sys2Proof.Machine.execRpt n l d a b s
  | .ld d a sz x im l => Sys2Proof.Machine.execLd d a sz x im l s
  | .lds d a sz x im l => Sys2Proof.Machine.execLds d a sz x im l s
  | .st d a sz x im => Sys2Proof.Machine.execSt d a sz x im s
  | .ldf d a im l => Sys2Proof.Machine.execLdf d a im l s
  | .ldfe d a im l => Sys2Proof.Machine.execLdfe d a im l s
  | .stf d a im => Sys2Proof.Machine.execStf d a im s
  | .stef d a im => Sys2Proof.Machine.execStef d a im s
  | .fetest d a im l => Sys2Proof.Machine.execFetest d a im l s
  | .feset d a im => Sys2Proof.Machine.execFeset d a im s
  | .hold d a im l => Sys2Proof.Machine.execHold d a im l s
  | .release d a im => Sys2Proof.Machine.execRelease d a im s
  | .far d a o im => Sys2Proof.Machine.execFar d a o im s
  | .fenceGroup => Sys2Proof.Machine.execFenceGroup s
  | .fenceDevice => Sys2Proof.Machine.execFenceDevice s
  | .fenceSystem => Sys2Proof.Machine.execFenceSystem s
  | .fenceI => Sys2Proof.Machine.execFenceI s
  | .mig d a => Sys2Proof.Machine.execMig d a s
  | .wfld d a c => Sys2Proof.Machine.execWfld d a c s
  | .wfw d => Sys2Proof.Machine.execWfw d s
  | .wlpush d a b => Sys2Proof.Machine.execWlpush d a b s
  | .wlpop d a => Sys2Proof.Machine.execWlpop d a s
  | .launch d a l => Sys2Proof.Machine.execLaunch d a l s
  | .gang d c => Sys2Proof.Machine.execGang d c s
  | .ungang => Sys2Proof.Machine.execUngang s
  | .yield => Sys2Proof.Machine.execYield s
  | .mfs d c => Sys2Proof.Machine.execMfs d c s
  | .mts a c => Sys2Proof.Machine.execMts a c s
  | .sendv d a b c => Sys2Proof.Machine.execSendv d a b c s
  | .recvv d l => Sys2Proof.Machine.execRecvv d l s
  | .mdone a => Sys2Proof.Machine.execMdone a s
  | .roll a => Sys2Proof.Machine.execRoll a s
  | .defer d a b => Sys2Proof.Machine.execDefer d a b s
  | .axbind a b c => Sys2Proof.Machine.execAxbind a b c s
  | .fopen d a => Sys2Proof.Machine.execFopen d a s
  | .fconf d a => Sys2Proof.Machine.execFconf d a s
  | .funw d a => Sys2Proof.Machine.execFunw d a s
  | .tokemit d a b c => Sys2Proof.Machine.execTokemit d a b c s
  | .abop d a b c => Sys2Proof.Machine.execAbop d a b c s
  | .tbegin a => Sys2Proof.Machine.execTbegin a s
  | .tend => Sys2Proof.Machine.execTend s
  | .vadd d a b m e r => Sys2Proof.Machine.execVadd d a b m e r s
  | .vsub d a b m e r => Sys2Proof.Machine.execVsub d a b m e r s
  | .vmul d a b m e r => Sys2Proof.Machine.execVmul d a b m e r s
  | .vfma d a b m e r => Sys2Proof.Machine.execVfma d a b m e r s
  | .vmin d a b m e => Sys2Proof.Machine.execVmin d a b m e s
  | .vmax d a b m e => Sys2Proof.Machine.execVmax d a b m e s
  | .vand d a b m e => Sys2Proof.Machine.execVand d a b m e s
  | .vor d a b m e => Sys2Proof.Machine.execVor d a b m e s
  | .vxor d a b m e => Sys2Proof.Machine.execVxor d a b m e s
  | .vshl d a b m e => Sys2Proof.Machine.execVshl d a b m e s
  | .vshr d a b m e => Sys2Proof.Machine.execVshr d a b m e s
  | .vcmp d a b c m e => Sys2Proof.Machine.execVcmp d a b c m e s
  | .vsel d a m e => Sys2Proof.Machine.execVsel d a m e s
  | .mand d a b => Sys2Proof.Machine.execMand d a b s
  | .mor d a b => Sys2Proof.Machine.execMor d a b s
  | .mnot d a => Sys2Proof.Machine.execMnot d a s
  | .mfirst d a b => Sys2Proof.Machine.execMfirst d a b s
  | .vred d a o m e r => Sys2Proof.Machine.execVred d a o m e r s
  | .vperm d a b m e => Sys2Proof.Machine.execVperm d a b m e s
  | .vbcast d a m e => Sys2Proof.Machine.execVbcast d a m e s
  | .vmovs d a b e => Sys2Proof.Machine.execVmovs d a b e s
  | .viota d a m e => Sys2Proof.Machine.execViota d a m e s
  | .vexp2 d a m r => Sys2Proof.Machine.execVexp2 d a m r s
  | .vlog2 d a m r => Sys2Proof.Machine.execVlog2 d a m r s
  | .vrcp d a m r => Sys2Proof.Machine.execVrcp d a m r s
  | .vrsq d a m r => Sys2Proof.Machine.execVrsq d a m r s
  | .vld d a im l => Sys2Proof.Machine.execVld d a im l s
  | .vst d a im => Sys2Proof.Machine.execVst d a im s
  | .vlds d a b im l => Sys2Proof.Machine.execVlds d a b im l s
  | .vgat d a b im l => Sys2Proof.Machine.execVgat d a b im l s
  | .vcvt d a sz m e r => Sys2Proof.Machine.execVcvt d a sz m e r s
  | .vqnt d a b m f => Sys2Proof.Machine.execVqnt d a b m f s
  | .vdqnt d a b m f r => Sys2Proof.Machine.execVdqnt d a b m f r s
  | .vbfly d a b m => Sys2Proof.Machine.execVbfly d a b m s
  | .vtwid d a b m => Sys2Proof.Machine.execVtwid d a b m s
  | .vbound d a b m e r => Sys2Proof.Machine.execVbound d a b m e r s
  | .vtopk d a b m e => Sys2Proof.Machine.execVtopk d a b m e s
  | .vgumb d a m => Sys2Proof.Machine.execVgumb d a m s
  | .vrng d a b m e => Sys2Proof.Machine.execVrng d a b m e s
  | .vgmask d a m e => Sys2Proof.Machine.execVgmask d a m e s
  | .mma c a b x y z k u => Sys2Proof.Machine.execMma c a b x y z k u s
  | .mcfg d a => Sys2Proof.Machine.execMcfg d a s
  | .mring d a => Sys2Proof.Machine.execMring d a s
  | .rpush d a c => Sys2Proof.Machine.execRpush d a c s
  | .mzero c => Sys2Proof.Machine.execMzero c s
  | .mst a b c => Sys2Proof.Machine.execMst a b c s
  | .mdup a => Sys2Proof.Machine.execMdup a s
  | .cpy d a b c l => Sys2Proof.Machine.execCpy d a b c l s
  | .cpyw d a l => Sys2Proof.Machine.execCpyw d a l s
  | .cpyres d a => Sys2Proof.Machine.execCpyres d a s
  | .gath d a l => Sys2Proof.Machine.execGath d a l s
  | .coll d a l => Sys2Proof.Machine.execColl d a l s
  | .bar d a l => Sys2Proof.Machine.execBar d a l s
  | .quies d l => Sys2Proof.Machine.execQuies d l s
  | .bhash d a b l => Sys2Proof.Machine.execBhash d a b l s
  | .pfxlook d a b l => Sys2Proof.Machine.execPfxlook d a b l s
  | .pfxins d a b l => Sys2Proof.Machine.execPfxins d a b l s
  | .pfxpin d a b c l => Sys2Proof.Machine.execPfxpin d a b c l s
  | .pfxunpin d a b l => Sys2Proof.Machine.execPfxunpin d a b l s
  | .ancm d a b l => Sys2Proof.Machine.execAncm d a b l s
  | .kvapp d a b c l => Sys2Proof.Machine.execKvapp d a b c l s
  | .utfb d a b => Sys2Proof.Machine.execUtfb d a b s
  | .trie d a b c => Sys2Proof.Machine.execTrie d a b c s
  | .ecall n => Sys2Proof.Machine.execEcall n s
  | .ebrk n => Sys2Proof.Machine.execEbrk n s
  | .tret => Sys2Proof.Machine.execTret s
  | .waiti => Sys2Proof.Machine.execWaiti s
  | .halt => Sys2Proof.Machine.execHalt s
  | .launchCommand q done rec => Sys2Proof.Machine.execLaunchCommand q done rec s
  | .copyCommand q done dst src len => Sys2Proof.Machine.execCopyCommand q done dst src len s
  | .signal q done addr value => Sys2Proof.Machine.execSignal q done addr value s
  | .waitCommand q done addr => Sys2Proof.Machine.execWaitCommand q done addr s
  | .partitionCreate q done desc => Sys2Proof.Machine.execPartitionCreate q done desc s
  | .partitionResize q done tpart desc => Sys2Proof.Machine.execPartitionResize q done tpart desc s
  | .partitionSetLimits q done tpart desc => Sys2Proof.Machine.execPartitionSetLimits q done tpart desc s
  | .preemptVacate q done tpart arg0 rect save => Sys2Proof.Machine.execPreemptVacate q done tpart arg0 rect save s
  | .preemptSwitchOut q done tpart arg0 save => Sys2Proof.Machine.execPreemptSwitchOut q done tpart arg0 save s
  | .preemptSwitchIn q done tpart save => Sys2Proof.Machine.execPreemptSwitchIn q done tpart save s
  | .preemptReturn q done tpart rect save => Sys2Proof.Machine.execPreemptReturn q done tpart rect save s
  | .teardown q done tpart => Sys2Proof.Machine.execTeardown q done tpart s
  | .notifyWrite q prod => Sys2Proof.Machine.execNotifyWrite q prod s
  | .commandFetch q => Sys2Proof.Machine.execCommandFetch q s
  | .commandRecordRefetch q => Sys2Proof.Machine.execCommandRecordRefetch q s
  | .queueEnable q v => Sys2Proof.Machine.execQueueEnable q v s
  | .queueStaleClear q => Sys2Proof.Machine.execQueueStaleClear q s
  | .intr p handle => Sys2Proof.Machine.execIntr p handle s
  | .go p => Sys2Proof.Machine.execGo p s
  | .stop p => Sys2Proof.Machine.execStop p s
  | .erhead p v => Sys2Proof.Machine.execErhead p v s
  | .axisDescriptorWord0Write ax v => Sys2Proof.Machine.execAxisDescriptorWord0Write ax v s
  | .axisTokenRingHead ax v => Sys2Proof.Machine.execAxisTokenRingHead ax v s
  | .traceRingEnable c => Sys2Proof.Machine.execTraceRingEnable c s
  | .receiveLogEnable c => Sys2Proof.Machine.execReceiveLogEnable c s
  | .registerWrite off v => Sys2Proof.Machine.execRegisterWrite off v s
  | .hostBar2Write off sz v => Sys2Proof.Machine.execHostBar2Write off sz v s
  | .hostBar2Read off sz => Sys2Proof.Machine.execHostBar2Read off sz s
  | .slotPopulation p => Sys2Proof.Machine.execSlotPopulation p s
  | .launchAging id => Sys2Proof.Machine.execLaunchAging id s
  | .launchCompletion id => Sys2Proof.Machine.execLaunchCompletion id s
  | .energyRefill c => Sys2Proof.Machine.execEnergyRefill c s
  | .yieldExpiry t => Sys2Proof.Machine.execYieldExpiry t s
  | .barrelIssue c => Sys2Proof.Machine.execBarrelIssue c s
  | .resultWriteback t r => Sys2Proof.Machine.execResultWriteback t r s
  | .storeAcknowledge t => Sys2Proof.Machine.execStoreAcknowledge t s
  | .parkedThreadWake t => Sys2Proof.Machine.execParkedThreadWake t s
  | .waitListResend t => Sys2Proof.Machine.execWaitListResend t s
  | .holdTimeout t => Sys2Proof.Machine.execHoldTimeout t s
  | .asyncTrapEntry t => Sys2Proof.Machine.execAsyncTrapEntry t s
  | .watchdogExpiry p => Sys2Proof.Machine.execWatchdogExpiry p s
  | .rewindStackFullTimeout t => Sys2Proof.Machine.execRewindStackFullTimeout t s
  | .tlbMissWalk t va => Sys2Proof.Machine.execTlbMissWalk t va s
  | .coreMapMissFill c lcoord => Sys2Proof.Machine.execCoreMapMissFill c lcoord s
  | .roamMigrationArrival n => Sys2Proof.Machine.execRoamMigrationArrival n s
  | .levellingInterval p => Sys2Proof.Machine.execLevellingInterval p s
  | .levellingArrival n => Sys2Proof.Machine.execLevellingArrival n s
  | .messageArrival n => Sys2Proof.Machine.execMessageArrival n s
  | .antiMessageArrival n => Sys2Proof.Machine.execAntiMessageArrival n s
  | .messageAcknowledge n => Sys2Proof.Machine.execMessageAcknowledge n s
  | .messageResend n => Sys2Proof.Machine.execMessageResend n s
  | .rollbackEventVector t => Sys2Proof.Machine.execRollbackEventVector t s
  | .horizonRoundStart p ax => Sys2Proof.Machine.execHorizonRoundStart p ax s
  | .horizonRoundClose p ax => Sys2Proof.Machine.execHorizonRoundClose p ax s
  | .directoryCascadeEvent n => Sys2Proof.Machine.execDirectoryCascadeEvent n s
  | .deferredEffectPerform c => Sys2Proof.Machine.execDeferredEffectPerform c s
  | .tokenRetirementBatch ax => Sys2Proof.Machine.execTokenRetirementBatch ax s
  | .frameAxisReset ax => Sys2Proof.Machine.execFrameAxisReset ax s
  | .vectorEngineStart c => Sys2Proof.Machine.execVectorEngineStart c s
  | .matrixQueueHead c => Sys2Proof.Machine.execMatrixQueueHead c s
  | .mmaStep c => Sys2Proof.Machine.execMmaStep c s
  | .copyJobStart c j => Sys2Proof.Machine.execCopyJobStart c j s
  | .copyGranule c j => Sys2Proof.Machine.execCopyGranule c j s
  | .gathWalk c j => Sys2Proof.Machine.execGathWalk c j s
  | .collMatch tag => Sys2Proof.Machine.execCollMatch tag s
  | .barrierArrival t => Sys2Proof.Machine.execBarrierArrival t s
  | .quiescenceSpanComplete p => Sys2Proof.Machine.execQuiescenceSpanComplete p s
  | .peerRequestArrival mm op phys sz v => Sys2Proof.Machine.execPeerRequestArrival mm op phys sz v s
  | .linkDown n => Sys2Proof.Machine.execLinkDown n s
  | .replayDelivery c => Sys2Proof.Machine.execReplayDelivery c s
  | .powerThrottle dies cycles => Sys2Proof.Machine.execPowerThrottle dies cycles s
  | .inFieldTestStart c => Sys2Proof.Machine.execInFieldTestStart c s
  | .inFieldTestComplete c pass => Sys2Proof.Machine.execInFieldTestComplete c pass s
  | .inFieldTestAbort c => Sys2Proof.Machine.execInFieldTestAbort c s
  | .quadReplacement bad spare => Sys2Proof.Machine.execQuadReplacement bad spare s
  | .fwleaseRenew => Sys2Proof.Machine.execFwleaseRenew s
  | .fwleaseTakeover die => Sys2Proof.Machine.execFwleaseTakeover die s
  | .powerGood => Sys2Proof.Machine.execPowerGood s
  | .stage1Reached dieOk => Sys2Proof.Machine.execStage1Reached dieOk s
  | .stage2Reached => Sys2Proof.Machine.execStage2Reached s
  | .startFailure reason => Sys2Proof.Machine.execStartFailure reason s
  | .startTimeout => Sys2Proof.Machine.execStartTimeout s
  | .pldmPlatformMonitoring => Sys2Proof.Machine.execPldmPlatformMonitoring s
  | .pldmFirmwareUpdate component image verified => Sys2Proof.Machine.execPldmFirmwareUpdate component image verified s
  | .pldmReset => Sys2Proof.Machine.execPldmReset s
  | .spdmAttestation => Sys2Proof.Machine.execSpdmAttestation s
  | .postedStoreCompletion t => Sys2Proof.Machine.execPostedStoreCompletion t s
  | .moveConfirmation n => Sys2Proof.Machine.execMoveConfirmation n s

end Sys2Proof.Machine
end

