-- ==== Sys2Proof/Machine/Issue.lean ====
section
/-! DEFINITION. One issue of a slot: what is taken at the boundary before the instruction (08_encoding.md R141; 15_time_axes.md R242, R243;
10_traps.md R166), fetch and decode, the instruction, and in a gang the same instruction in every member (04_threads.md R61, R62). -/
namespace Sys2Proof.Machine

/-- The fault report due because the thread waits for a faulted load whose window is spent (10_traps.md R166). -/
def Thread.faultReport (t : Thread) : Option Cause :=
  if t.pipe.pend.any (fun p => p.left = 0 && p.st = .faulted && p.reg ≠ 0) then t.faultCause else none

/-- The fault reports due in the members of the current thread's gang, or in it alone: each takes its own (04_threads.md R62). -/
def State.faultReports (s : State) : List (Tid × Cause) := (s.members s.th).filterMap fun t => t.faultReport.map fun c => (t.tid, c)

/-- The word `w` is decoded and the current thread executes it; a word that the decoder refuses takes the
illegal-instruction trap with TVAL the word (08_encoding.md R135). -/
def runWord (w : Half) (s : State) : Result :=
  match decode w with
  | .error _ => .next (s.takeTrap (causeOf 0x01 (zx w)))
  | .ok i => exec i s

/-! ### Gangs -/

/-- Instructions that only the leader executes: those that a gang forbids raise their trap in the leader (R61), and RPT, whose frame the leader
captures for every member. DESIGN CHOICE (log entry 71): where the leader's RPT traps, the followers go on at the word after it. -/
def leaderOnly : Instr → Bool
  | .gang .. | .mig .. | .wfw .. | .roll .. | .rpt .. | .axbind .. | .fopen .. | .fconf .. | .funw .. | .tokemit .. | .abop .. | .tbegin ..
  | .tend => true
  | _ => false

/-- The thread has parked without having its instruction performed by a memory later. -/
def Thread.parkedAgain (t : Thread) : Bool :=
  match t.pipe.park with
  | none | some (.full _) => false
  | some _ => true

/-- A follower at an instruction that only the leader executes: it goes on at the next one, in the frame that the leader began. The instruction
takes its place in the follower's windows (01_tutorial.md R10). -/
def followLeader (l : Thread) (t : Thread) : Thread :=
  { t.tick.step4.counted with
    trap := { t.trap with rptst := if l.pipe.inFrame then l.trap.rptst else t.trap.rptst }
    pipe := { t.pipe with inFrame := l.pipe.inFrame, frame := l.pipe.frame } }

/-- The thread took a trap, or one is due, that it did not have in `old` (R62). -/
def Thread.trapped (old t : Thread) : Bool := t.pipe.trapDue.isSome || (t.st tSP && !old.st tSP)

/-- A conditional branch, whose outcome is the leader's (R61). -/
def branches : Instr → Bool
  | .beq .. | .bne .. | .blt .. | .bge .. | .bltu .. | .bgeu .. | .bany .. | .bnone .. => true
  | _ => false

/-- A follower executes the leader's word in the same cycle, on its own registers and memories (R61), and its core issues nothing else. It
takes the leader's pc before, and the leader's outcome `pc'` after, unless it took a trap of its own. DESIGN CHOICE (log entry 71): where the
leader trapped, and so has no outcome, a branch or a JALR goes on at the next word. -/
def followWord (w : Half) (pc : Word) (l : Tid) (pc' : Option Word) (t : Tid) (s : State) : State :=
  let s1 := ((s.focus t).issues).mapTh fun t => { t with pc := pc }
  match decode w with
  | .error _ => s1.takeTrap (causeOf 0x01 (zx w))
  | .ok i =>
    if leaderOnly i then s1.mapTh (followLeader (s1.thread l))
    else
      let goesTo := if branches i then some (pc'.getD (pc + 4)) else pc'
      match (match i with
        | .jalr d a o => followJalr d a o (pc'.getD (pc + 4)) s1
        | i => exec i s1) with
      | .next s2 =>
        if s1.th.trapped s2.th || s2.th.pipe.park.isSome || !s2.th.active then s2
        else
          match goesTo with
          | some x => s2.mapTh fun t => { t with pc := x }
          | none => s2
      | _ => s1

/-- The followers one after another; the first that parks holds the gang. -/
def followAll (w : Half) (pc : Word) (l : Tid) (pc' : Option Word) : List Tid → State → Except Thread State
  | [], s => .ok s
  | t :: ts, s =>
    let s1 := followWord w pc l pc' t s
    if s1.th.parkedAgain then .error s1.th else followAll w pc l pc' ts s1

/-- The members of the current thread's gang that park at a WAITI. -/
def State.gangWaiters (s : State) (w : Half) : List Tid :=
  match decode w with
  | .ok .waiti => ((s.members s.th).filter (·.waitsForInterrupt)).map (·.tid)
  | _ => []

/-- The word `w` executes in the current thread, and in every follower of the gang it leads. A member that parks holds the whole gang, and the
instruction executes again in every member when it wakes (R61); at WAITI each member parks on its own interrupts (23 R396). -/
def runGang (w : Half) (s : State) : Result :=
  match s.th.gang with
  | none => runWord w s
  | some (l, _) =>
    if s.gangWaiters w ≠ [] then .next ((s.gangWaiters w).foldl (fun s t => s.asThread t (·.parkOn .interrupt)) s) else
    let followers := ((s.gangOf l).filter (·.tid != l)).map (·.tid)
    match runWord w s with
    | .next s1 =>
      if s1.th.parkedAgain then .next s1
      else
        let pc' := if s.th.trapped s1.th || s1.th.pipe.park.isSome || !s1.th.active then none else some s1.th.pc
        match followAll w s.th.pc l pc' followers s1 with
        | .ok s2 => .next (s2.focus l)
        | .error t => .next (s.updThread t.tid fun x => { x with pipe := { x.pipe with
            park := t.pipe.park, parkedAt := t.pipe.parkedAt, parkSeq := t.pipe.parkSeq, record := t.pipe.record } })
    | r => r

/-! ### The issue -/

/-- The next word is fetched and executes, once the accesses that a TRET found held have been issued again (22 R378), and unless a FENCE
system holds it (06_ordering.md R97). -/
def State.fetchAndRun (s : State) : Result :=
  let s1 := s.resumeAll
  if s1.th.pipe.park.isSome || s1.th.exhausted.isSome then .next s1
  else
    match s1.nextWord with
    | .error c => .next (s1.takeTrap c)
    | .ok w =>
      match s1.fenceHolds w with
      | .done s2 => runGang w (s2.withFetched w)
      | e => e.outcome s1

/-- Outward traffic of a core in replay mode is discarded (10_traps.md R175): of the step from `s` to `s1` of its thread only what the core,
its slots and its local memory hold stays. A core whose partition the step would have halted or failed issues no more (log entry 50). -/
def State.confined (s s1 : State) : State :=
  let c := s.th.cid
  let own (k : Nat) : Bool := locKey c 0 ≤ k && k < locKey c 0 + localBytes
  let mine (h : Holder) : Bool := match h with
    | .thread t | .turn t => tidCore t == c
    | _ => false
  let keep (xs ys : List Nat) : List Nat := ys.filter own ++ xs.filter (!own ·)
  { s1 with
    core := if s1.part.state = s.part.state then s1.core else { s1.core with stopped := true }
    part := s.part
    others := s1.others.filter (·.cid == c) ++ s.others.filter (·.cid != c)
    cores := s.cores
    parts := s.parts
    mem := s.mem.filter (·.1 < locKey c 0) ++ s1.mem.filter (own ·.1) ++ s.mem.filter (locKey c 0 + localBytes ≤ ·.1)
    keyed := s.keyed
    empties := (keep s.empties s1.empties).foldl insertKey []
    poison := keep s.poison s1.poison
    waiters := s1.waiters.filter fun w => own w.place || s.waiters.contains w
    held := s1.held.filter (fun h => own h.key || mine h.holder) ++ s.held.filter (fun h => !(own h.key || mine h.holder))
    dispensers := s.dispensers, dir := s.dir, cascade := s.cascade, messages := s.messages, transits := s.transits, moves := s.moves
    launches := s.launches, axes := s.axes, modl := s.modl }

/-- The selected thread issues: a trap that waited for results, an asynchronous cause, a rollback event or a fault report is taken instead of an
instruction where one is due. -/
def issueLive (s : State) : Result :=
  match s.th.pipe.trapDue, s.th.asyncCause with
  | some c, _ => .next (s.takeTrap c)
  | none, some (c, t) => .next (({ s with th := t } : State).takeTrap c)
  | none, none =>
    match s.th.eventDue with
    | some _ => .next s.takeEvent
    | none =>
      match s.faultReports with
      | [] => s.fetchAndRun
      | rs => .next (rs.foldl (fun s r => s.asThread r.1 (·.takeTrap r.2)) s)

/-- The selected thread issues; in replay mode nothing of it leaves its core (10_traps.md R175). -/
def issueCurrent (s : State) : Result :=
  match issueLive s with
  | .next s1 => .next (if s.replays s.th.cid then s.confined s1 else s1)
  | r => r

end Sys2Proof.Machine
end

