-- ==== Sys2Proof/Machine/Step.lean ====
section
/-! DEFINITION. One step of the machine: the next event of another agent, or an issue that an event has started, or a step of
the machine's own units, or a cycle of the current core's barrel; and where a program is placed for the host's question. -/
namespace Sys2Proof.Machine

/-- A cycle of the current core: its next eligible slot issues, or the cycle passes (04_threads.md R56). -/
def barrelCycle (s : State) : Result :=
  let s1 := s.tickCycle.sampleAll
  match s1.nextSlot s1.core.cid with
  | none => .next s1
  | some t => issueCurrent (s1.select t)

/-- One step. Events of the inbox come first, in order; an instruction word among them is no event and is dropped. After each
barrel cycle the machine's own units take one step, when one is due. -/
def step (s : State) : Host.Outcome State Fault Refusal :=
  if s.issueNow then issueCurrent { s with issueNow := false }
  else
    match s.inbox with
    | e :: rest => if e.isWord then .next { s with inbox := rest } else exec e { s with inbox := rest }
    | [] =>
      if s.engineTurn then
        match nextInternal s with
        | some e => exec e { s with engineTurn := false }
        | none => barrelCycle s
      else barrelCycle { s with engineTurn := true }

/-- The offset in core (0, 0)'s local memory at which `withFetchWord` places a program. -/
def programOff : Nat := 0x20000

/-- The state with the word placed where the next step fetches: the module at stage 2, a 2 x 2 partition 0 running, one user
thread in slot 0 of its first core with the pc at the word. This stands for the host's commands and the launch that bring
a program to run (log entry 9). -/
def State.withFetchWord (s : State) (nbits w : Nat) : State :=
  let p : Partition := { Partition.absent 0 with live := true, hm1 := 1, wm1 := 1 }
  let t : Thread := { Thread.unpopulated 0 with
    active := true
    pc := ownAddr programOff
    pipe := { (Thread.unpopulated 0).pipe with ebud := 131072 } }
  { s with
    th := t
    core := { Core.initial 0 with owner := some 0 }
    part := p
    others := []
    mem := s.mem.writeN programOff 4 (if nbits ≤ 32 then w % 2 ^ nbits else w)
    modl := { s.modl with startStatus := 2 }
    inbox := []
    engineTurn := false
    issueNow := false
    cycle := 0 }

end Sys2Proof.Machine
end

