-- ==== Sys2Proof/Safety.lean ====
section
/-! DEFINITION. What counts as safe, in the terms the statements use: a step that goes on, a thread free to run an
instruction, the state that an instruction leaves when it only writes one register, and what an access needs to run at
once. -/
namespace Sys2Proof.Machine

/-- The outcome is a next state: neither a fault nor a refusal. -/
def Completes (r : Result) : Prop := ∃ t, r = .next t

/-- A step from `s` goes on. -/
def State.Safe (s : State) : Prop := Completes (step s)

/-- The memories, and the list of key indexes of their blocks, stand in canonical form. -/
def State.Canonical (s : State) : Prop := Mem.wf s.mem = true ∧ keyedWf s.keyed = true

/-! ### Registers and lookahead windows -/

/-- No open lookahead window covers a scalar register of the list (01_tutorial.md R10). -/
def State.Free (s : State) (rs : List Reg) : Prop :=
  ∀ p ∈ s.th.pipe.pend, 0 < p.left → ∀ r ∈ rs, r ≠ 0 → p.reg ≠ wReg r

/-- The registers that an instruction reads or writes, those that its encoding does not name included (01_tutorial.md R10; 08_encoding.md R129 to
R134): scalar registers but w0, which is never pending, and vector registers. -/
def touches : Instr → List (BitVec 5)
  | .add d a b | .sub d a b | .and d a b | .or d a b | .xor d a b | .shl d a b | .shr d a b | .sra d a b | .slt d a b | .sltu d a b
  | .min d a b | .max d a b | .mul d a b _ | .div d a b _ | .divu d a b _ | .rem d a b _ | .remu d a b _ => wRegs [d, a, b]
  | .sel d a b c | .sendv d a b c | .tokemit d a b c | .abop d a b c | .trie d a b c => wRegs [d, a, b, c]
  | .clz d a | .ctz d a | .popc d a | .addi d a _ | .andi d a _ | .ori d a _ | .xori d a _ | .slti d a _ | .shli d a _ | .shri d a _
  | .srai d a _ | .jalr d a _ | .fopen d a | .fconf d a | .funw d a | .cpyres d a | .mcfg d a | .mring d a | .mig d a => wRegs [d, a]
  | .lui d _ | .luih d _ | .addpc d _ | .jal d _ | .mfs d _ | .gang d _ | .recvv d _ | .quies d _ => wRegs [d]
  | .beq a b _ | .bne a b _ | .blt a b _ | .bge a b _ | .bltu a b _ | .bgeu a b _ | .bany a b _ | .bnone a b _ => wRegs [a, b]
  | .ld d a _ _ _ _ | .lds d a _ _ _ _ | .st d a _ _ _ | .ldf d a _ _ | .ldfe d a _ _ | .stf d a _ | .stef d a _ | .fetest d a _ _
  | .feset d a _ | .hold d a _ _ | .release d a _ | .far d a _ _ | .wfld d a _ | .launch d a _ | .rpush d a _ | .cpyw d a _ | .gath d a _
  | .coll d a _ | .bar d a _ => wRegs [d, a]
  | .wfw d => wRegs [d, 1, 2, 3, 4]
  | .wlpop d a => wRegs [d, d + 1, a]
  | .wlpush d a b | .defer d a b | .utfb d a b => wRegs [d, a, b]
  | .mts a _ | .mst a _ _ | .mdup a | .mdone a | .roll a | .tbegin a => wRegs [a]
  | .axbind a b c => wRegs [a, b, c]
  | .cpy d a b c _ | .pfxpin d a b c _ | .kvapp d a b c _ => wRegs [d, a, b, c]
  | .bhash d a b _ | .ancm d a b _ | .pfxlook d a b _ | .pfxins d a b _ | .pfxunpin d a b _ => wRegs [d, a, b]
  | .vadd d a b _ _ _ | .vsub d a b _ _ _ | .vmul d a b _ _ _ | .vfma d a b _ _ _ | .vmin d a b _ _ | .vmax d a b _ _ | .vand d a b _ _
  | .vor d a b _ _ | .vxor d a b _ _ | .vshl d a b _ _ | .vshr d a b _ _ | .vperm d a b _ _ | .vbfly d a b _ => vRegs [d, a, b]
  | .vcmp _ a b _ _ _ => vRegs [a, b]
  | .vsel d a _ _ | .vred d a _ _ _ _ | .vexp2 d a _ _ | .vlog2 d a _ _ | .vrcp d a _ _ | .vrsq d a _ _ | .vcvt d a _ _ _ _
  | .vgumb d a _ => vRegs [d, a]
  | .vbcast d a _ _ | .viota d a _ _ | .vgmask d a _ _ | .vld d a _ _ | .vst d a _ => vRegs [d] ++ wRegs [a]
  | .vqnt d a b _ _ | .vdqnt d a b _ _ _ => vRegs [d, a] ++ wRegs [b]
  | .vtwid d a b _ | .vrng d a b _ _ | .vlds d a b _ _ => vRegs [d] ++ wRegs [a, b]
  | .vbound d a b _ _ _ => vRegs [d, a, b, b + 1]
  | .vtopk d a b _ _ => vRegs [d, d + 1, a] ++ wRegs [b]
  | .vgat d a b _ _ => vRegs [d, b] ++ wRegs [a]
  | .mfirst d _ b => wRegs [d, b]
  | .vmovs d a b _ => wRegs [d, b] ++ vRegs [a]
  | _ => []

/-- The instruction has a check of privilege or of the thread's state, which comes before that of the windows (08_encoding.md R141). -/
def checksFirst : Instr → Bool
  | .mfs .. | .mts .. | .hold .. | .release .. | .wfw .. | .gang .. | .mig .. | .sendv .. | .roll .. | .axbind .. | .fopen .. | .fconf ..
  | .funw .. | .tokemit .. | .abop .. | .tbegin .. | .pfxins .. | .kvapp .. => true
  | _ => false

/-- No open lookahead window covers a vector register of the list. -/
def State.FreeVec (s : State) (vs : List Reg) : Prop :=
  ∀ p ∈ s.th.pipe.pend, 0 < p.left → ∀ r ∈ vs, p.reg ≠ vReg r

/-- The thread past an instruction that changes nothing else: every open window is one instruction shorter, the pc or the
repeat frame's position has moved on, and ICNT is one up. -/
def Thread.passed (t : Thread) : Thread := t.tick.step4.counted

/-- `r` answers a next state that differs from `s` past its instruction in no more than w[d], which is `x` (nothing at all
when d is w0): every other register of the thread, every other thread, and every byte of memory is as it was. -/
def Puts (r : Result) (s : State) (d : Reg) (x : Word) : Prop :=
  ∃ t, r = .next t ∧ (d ≠ 0 → t.rd d = x) ∧ (∀ e, e ≠ d → t.rd e = s.rd e) ∧
    (∀ k, t.mem.read k = s.mem.read k) ∧ t = { s with th := { s.th.passed with w := t.th.w } }

/-- `r` answers a next state in which the result `x` is written to w[d] at once, for la = 0 or d = w0, and otherwise is pending
in w[d] for la instructions, no register having changed yet (04_threads.md R57; 08_encoding.md R132). -/
def PutsLate (r : Result) (s : State) (d la : Reg) (x : Word) : Prop :=
  if la = 0 ∨ d = 0 then Puts r s d x
  else ∃ t, r = .next t ∧ (∀ e, t.rd e = s.rd e) ∧ (∀ k, t.mem.read k = s.mem.read k) ∧
    t = { s with th := { s.th.passed with pipe := { s.th.passed.pipe with
      pend := s.th.passed.pipe.pend ++ [⟨wReg d, la.toNat, 0, s.th.pc, .value (x.setWidth 512), s.th.ident.icnt⟩] } } }

/-- `r` answers a next state that differs from `s` past its instruction in the pc alone, which is `pc`. -/
def GoesTo (r : Result) (s : State) (pc : Word) : Prop :=
  ∃ t, r = .next t ∧ (∀ e, t.rd e = s.rd e) ∧ (∀ k, t.mem.read k = s.mem.read k) ∧
    t = { s with th := { s.th.tick.counted with pc := pc } }

/-! ### The vector engine -/

/-- A queued vector instruction with the scalars that it read. -/
structure Queued where
  instr : Instr
  x : Word
  y : Word
  deriving DecidableEq, Repr

/-- The engine of the current core performs `q`, an instruction of the current thread at the head of its queue, and `p` holds of the next state: the
instruction has left the queue, and of the thread no more than the vector registers, the masks, VDIRTY and whether its slot is out of
budget has changed (09_matrix_vector.md R156; 04_threads.md R66). -/
def State.Performs (s : State) (q : Queued) (p : State → Prop) : Prop :=
  ∀ rest, s.core.vq = ⟨s.th.tid, q.instr, q.x, q.y⟩ :: rest →
    ∃ t, exec (.vectorEngineStart s.core.cid) s = .next t ∧ p t ∧ (∀ b, b ≠ tVDIRTY → t.th.st b = s.th.st b) ∧
      t = { s with
        core := { s.core with vq := rest }
        th := { s.th with v := t.th.v, m := t.th.m, tstat := t.th.tstat, pipe := { s.th.pipe with starved := t.th.pipe.starved } } }

/-- Performed, `q` writes to v[d] the low bits of `f j` in each lane `j` of `w` bits below `n` that m[m] enables, and nothing else (09_matrix_vector.md R157). -/
def State.Lanes (s : State) (q : Queued) (d : Reg) (m : BitVec 2) (w n : Nat) (f : Nat → Nat) : Prop :=
  s.Performs q fun t =>
    (∀ j, j < n → lane w (t.rdv d) j = if (s.rdm m).getLsbD j = true then f j % 2 ^ w else lane w (s.rdv d) j) ∧
    (∀ i, n * w ≤ i → i < 512 → (t.rdv d).getLsbD i = (s.rdv d).getLsbD i) ∧
    (∀ i, i ≠ d → t.rdv i = s.rdv i) ∧ ∀ i, t.rdm i = s.rdm i

/-! ### Traps -/

/-- Nothing of the thread is left to be written, withdrawn or disbanded when it takes a trap: no pending result, no request
of it waiting at a memory, no gang. -/
def State.Settled (s : State) : Prop :=
  s.th.pipe.pend = [] ∧ s.th.gang = none ∧ ∀ w ∈ s.waiters, w.owner ≠ some s.th.tid

/-- `t` is `s` with the thread in its handler for the cause `c` (10_traps.md R160): TEPC holds the pc, TCAUSE and TVAL the
cause, PRIV is supervisor, SP is set and pc is TVEC; no register, special register or byte of memory has changed else. -/
def Entered (s t : State) (c : Cause) : Prop :=
  t.th.trap.tepc = s.th.pc ∧ t.th.trap.tcause = BitVec.ofNat 64 (c.detail.toNat * 256 + c.code.toNat) ∧
  t.th.trap.tval = c.tval ∧ bits t.th.tstat 1 0 = 1 ∧ t.th.st tSP = true ∧
  (∀ b, b ≠ tSP → 2 ≤ b → t.th.st b = s.th.st b) ∧ t.th.pc = s.th.trap.tvec ∧
  (∀ e, t.rd e = s.rd e) ∧ (∀ k, t.mem.read k = s.mem.read k) ∧
  t = { s with th := { s.th with
    pc := t.th.pc
    tstat := t.th.tstat
    trap := { s.th.trap with tepc := t.th.trap.tepc, tcause := t.th.trap.tcause, tval := t.th.trap.tval }
    pipe := { s.th.pipe with park := none, turn := none, record := none, inFrame := false, frame := [], trapDue := none, held := s.th.pipe.held.map fun h => { h with phase := .asleep } } } }

/-- `r` takes the trap `c`. -/
def Traps (r : Result) (s : State) (c : Cause) : Prop := ∃ t, r = .next t ∧ Entered s t c

/-! ### Accesses -/

/-- Nobody records arrivals or writes, and no core is in replay mode (06_ordering.md R102; 10_traps.md R174, R175). -/
def State.Quiet (s : State) : Prop :=
  ∀ c, (s.coreOf c).log.enabled = false ∧ (s.coreOf c).trace.enabled = false ∧ (s.coreOf c).log.replay = []

/-- Nothing but the address can keep an access of the current thread from running at once: it has no faulted access held, no plain
store unacknowledged, no request at a memory, no HOLD without its grant and no result that waits, its core's engines move nothing and
the mesh carries nothing from or to its core, and nobody records arrivals or writes
(01_tutorial.md R9; 02_module.md R26; 06_ordering.md R92, R94, R100, R102, R104; 10_traps.md R165, R174). -/
structure State.Calm (s : State) : Prop where
  held : s.th.pipe.held = []
  pend : ∀ p ∈ s.th.pipe.pend, p.st = .arrived ∨ p.st.inHand = true
  stored : s.th.pipe.plainOut = false
  granted : s.awaiting = false
  waiters : ∀ w ∈ s.waiters, w.owner ≠ some s.th.tid
  paths : ∀ c, s.pathBusy s.th.cid c s.stamp = false ∧ s.pathBusy c s.th.cid s.stamp = false
  jobs : s.core.jobs = []
  colls : s.core.cq = []
  core : s.core.cid = s.th.cid
  quiet : s.Quiet

/-- The `n` bytes at the place were written under the key index with which the access comes, so that it finds them as they were
written (02_module.md R23). -/
def State.Keyed (s : State) (pl : Place) (n : Nat) : Prop := ∀ b ∈ blocksOf pl.key n, s.blockKey b = pl.enc

/-- The access of `n` bytes at `a` reaches the place `pl`, an ordinary one without an error, whose bytes it finds as they were written. -/
structure State.Reaches (s : State) (ac : Access) (n : Nat) (a : Word) (pl : Place) : Prop where
  place : resolve s s.th.agent ac n a = .ok pl
  plain : pl.special = .none
  clean : s.poisonIn pl.key n = none
  keyed : s.Keyed pl n

/-- No other thread and no peer holds one of the `n` bytes' words, and no request waits at them. -/
structure State.Unwatched (s : State) (k n : Nat) : Prop where
  unheld : s.heldByOther (some s.th.tid) k n = none
  alone : ∀ w ∈ s.waiters, ¬(wordKey w.place ≤ wordKey k ∧ wordKey k < w.place + w.size)

/-- A store of the thread neither moves it nor is logged (04_threads.md R67; 15_time_axes.md R246). -/
structure State.Unlogged (s : State) : Prop where
  roam : s.th.st tROAM = false
  logs : s.th.logs = false

/-- A unit's read of `n` pieces of `size` bytes from `a` on reaches the places `ps`, without an error. -/
structure State.Gives (s : State) (size n : Nat) (a : Word) (ps : List (Word × Place)) : Prop where
  places : placesFrom s .unitRead size n a = .ok ps
  clean : ∀ p ∈ ps, s.poisonIn p.2.key size = none

/-- The descriptor at `a` names the prefix table `tb`, which the instruction may reach (12_prefix_index.md R204). -/
def State.HasTable (s : State) (a : Word) (tb : PrefixTable) : Prop :=
  ∃ ps, s.Gives 32 1 a ps ∧ tableOf (pieceWords s 32 (ps.map (·.2))) = some tb ∧ tb.outside s.part = none

/-- The key at `a`, its words 1 to 11 without an error (12_prefix_index.md R203). -/
def State.HasKey (s : State) (a : Word) (key : List Word) : Prop :=
  ∃ ps, placesFrom s .unitRead 64 2 a = .ok ps ∧ keyError s ps = none ∧ key = pieceWords s 64 (ps.map (·.2))

/-- The 8 bytes at `x` and the `n` bytes at `y` do not overlap. -/
def Apart (x y n : Nat) : Prop := x + 8 ≤ y ∨ y + n ≤ x

/-- None of the `n` words from the place on is a special one, which a unit reads as 0 (05_work.md R85). -/
def Place.Ordinary (p : Partition) (pl : Place) (n : Nat) : Prop :=
  ∀ i, i < n → specialAt p pl.space (pl.off + 8 * i) = false

/-- Queue `q` takes a command now: the module offers commands, no command of the queue is in progress, and neither the queue nor
its partition nor the target refuses it (18_host.md R289). -/
structure State.Takes (s : State) (q : BitVec 12) (priv : Bool) (target : Option (BitVec 6)) : Prop where
  started : s.started = true
  idle : (s.queueOf q).busy = none
  fit : s.commandBad q priv target false = false

/-- `r` accepts the command of queue `q` in a state of which `p` holds. -/
def Accepts (r : Result) (q : BitVec 12) (p : State → Prop) : Prop := ∃ t, r = .next t ∧ (t.queueOf q).busy = none ∧ p t

/-- The thread, its core and its partition are the current ones. -/
structure State.Focused (s : State) : Prop where
  core : s.core.cid = s.th.cid
  part : s.part.num = s.th.part

/-- `t` has the `n` low bytes of `x` from byte `k` of memory on, little-endian (00_scope.md R4), and every other byte as `s` has it. -/
def Stored (s t : State) (k n : Nat) (x : Word) : Prop :=
  ∀ j, t.mem.read j = if k ≤ j ∧ j < k + n then byteOf x (j - k) else s.mem.read j

/-- `x` is the `n` bytes from byte `k` of memory on, little-endian, extended with zeros or, signed, with copies of the top bit. -/
def Loaded (s : State) (k n : Nat) (sgn : Bool) (x : Word) : Prop :=
  ∀ i, i < 64 → x.getLsbD i =
    if i < 8 * n then (s.mem.read (k + i / 8)).getLsbD (i % 8) else sgn && (s.mem.read (k + n - 1)).getLsbD 7

/-- Only the word of byte `k` has changed its full/empty bit, which is `full`. -/
def BitIs (s t : State) (k : Nat) (full : Bool) : Prop :=
  t.isFull k = full ∧ ∀ j, wordKey j ≠ wordKey k → t.isFull j = s.isFull j

end Sys2Proof.Machine
end

