-- ==== Sys2Proof/Certificates/Slice0/Obligations.lean ====
section
/-! DEFINITION. The statements for the provers. Each docstring names the rules of the spec that the statement rests on. -/

open Sys2Proof Sys2Proof.Machine

/-! ### The scalar instructions -/

/-- The register ALU group (20 R317, 04 R54): each of the sixteen instructions completes with its result in w[d], written
before the next issue, and changes nothing else.
CLZ, CTZ and POPC (20 R317): the number of zero bits above the highest set bit, of zero bits below the lowest, and of
set bits; 64, 64 and 0 for zero. -/
def Obligations.RegisterAlu : Prop :=
  (∀ (s : State) (d a b c : Reg), s.Free [d, a, b] →
     Puts (exec (.add d a b) s) s d (BitVec.ofInt 64 ((s.rd a).toInt + (s.rd b).toInt)) ∧
     Puts (exec (.sub d a b) s) s d (BitVec.ofInt 64 ((s.rd a).toInt - (s.rd b).toInt)) ∧
     Puts (exec (.and d a b) s) s d (s.rd a &&& s.rd b) ∧
     Puts (exec (.or d a b) s) s d (s.rd a ||| s.rd b) ∧
     Puts (exec (.xor d a b) s) s d (s.rd a ^^^ s.rd b) ∧
     Puts (exec (.shl d a b) s) s d (s.rd a <<< ((s.rd b).toNat % 64)) ∧
     Puts (exec (.shr d a b) s) s d (s.rd a >>> ((s.rd b).toNat % 64)) ∧
     Puts (exec (.sra d a b) s) s d ((s.rd a).sshiftRight ((s.rd b).toNat % 64)) ∧
     Puts (exec (.slt d a b) s) s d (if (s.rd a).toInt < (s.rd b).toInt then 1 else 0) ∧
     Puts (exec (.sltu d a b) s) s d (if (s.rd a).toNat < (s.rd b).toNat then 1 else 0) ∧
     Puts (exec (.min d a b) s) s d (if (s.rd b).toInt < (s.rd a).toInt then s.rd b else s.rd a) ∧
     Puts (exec (.max d a b) s) s d (if (s.rd a).toInt < (s.rd b).toInt then s.rd b else s.rd a) ∧
     (s.Free [c] → Puts (exec (.sel d a b c) s) s d (if s.rd c = 0 then s.rd b else s.rd a))) ∧
  (∀ (s : State) (d a : Reg), s.Free [d, a] →
     (∃ n ≤ 64, (∀ i < n, (s.rd a).getLsbD (63 - i) = false) ∧ (n < 64 → (s.rd a).getLsbD (63 - n) = true) ∧
       Puts (exec (.clz d a) s) s d (BitVec.ofNat 64 n)) ∧
     (∃ n ≤ 64, (∀ i < n, (s.rd a).getLsbD i = false) ∧ (n < 64 → (s.rd a).getLsbD n = true) ∧
       Puts (exec (.ctz d a) s) s d (BitVec.ofNat 64 n)) ∧
     Puts (exec (.popc d a) s) s d (BitVec.ofNat 64 ((List.range 64).countP (fun i => (s.rd a).getLsbD i))))

/-- The immediate group (20 R318), LUI, LUIH (21 R352) and ADDPC (20 R319): each
completes with its result in w[d] and changes nothing else. -/
def Obligations.ImmediateAlu : Prop :=
  ∀ (s : State) (d a : Reg) (i : BitVec 18) (u : BitVec 22), s.Free [d, a] →
    Puts (exec (.addi d a i) s) s d (s.rd a + i.signExtend 64) ∧
    Puts (exec (.andi d a i) s) s d (s.rd a &&& i.signExtend 64) ∧
    Puts (exec (.ori d a i) s) s d (s.rd a ||| i.signExtend 64) ∧
    Puts (exec (.xori d a i) s) s d (s.rd a ^^^ i.signExtend 64) ∧
    Puts (exec (.slti d a i) s) s d (if (s.rd a).toInt < i.toInt then 1 else 0) ∧
    Puts (exec (.lui d u) s) s d (BitVec.ofInt 64 (u.toInt * 2 ^ 18)) ∧
    Puts (exec (.luih d u) s) s d (BitVec.ofNat 64 (u.toNat * 2 ^ 42 + (s.rd d).toNat % 2 ^ 42)) ∧
    Puts (exec (.addpc d u) s) s d (s.th.pc + BitVec.ofInt 64 (4 * u.toInt))

/-- The multiply-divide group (20 R330, 07 R125): the result is written at once for la = 0, and otherwise is pending in w[d]
for la instructions; quotients are rounded toward zero, and a divisor of 0 gives all ones and the dividend as remainder. -/
def Obligations.MultiplyDivide : Prop :=
  ∀ (s : State) (d a b la : Reg), s.Free [d, a, b] →
    PutsLate (exec (.mul d a b la) s) s d la (BitVec.ofNat 64 ((s.rd a).toNat * (s.rd b).toNat)) ∧
    PutsLate (exec (.div d a b la) s) s d la
      (if s.rd b = 0 then BitVec.allOnes 64 else BitVec.ofInt 64 ((s.rd a).toInt.tdiv (s.rd b).toInt)) ∧
    PutsLate (exec (.divu d a b la) s) s d la
      (if s.rd b = 0 then BitVec.allOnes 64 else BitVec.ofNat 64 ((s.rd a).toNat / (s.rd b).toNat)) ∧
    PutsLate (exec (.rem d a b la) s) s d la
      (if s.rd b = 0 then s.rd a else BitVec.ofInt 64 ((s.rd a).toInt.tmod (s.rd b).toInt)) ∧
    PutsLate (exec (.remu d a b la) s) s d la
      (if s.rd b = 0 then s.rd a else BitVec.ofNat 64 ((s.rd a).toNat % (s.rd b).toNat))

/-- The eight conditional branches (20 R323, 01 R8): a branch whose condition holds continues at its own address plus
4 · sx(off15); any other passes on; neither writes a register.
JAL and JALR (21 R343, R344): the link pc + 4 is written to w[d], w[a] having been read before, and the thread continues at
the target.
A JALR from a misaligned base takes the misaligned trap with TVAL the target, and writes no link (08 R127, 21 R344). -/
def Obligations.ControlTransfer : Prop :=
  (∀ (s : State) (a b : Reg) (o : BitVec 15), s.Free [a, b] →
     let goes (r : Result) (taken : Prop) : Prop :=
       (taken → GoesTo r s (s.th.pc + BitVec.ofInt 64 (4 * o.toInt))) ∧ (¬taken → GoesTo r s s.th.step4.pc)
     s.th.pipe.inFrame = false →
     goes (exec (.beq a b o) s) (s.rd a = s.rd b) ∧
     goes (exec (.bne a b o) s) (s.rd a ≠ s.rd b) ∧
     goes (exec (.blt a b o) s) ((s.rd a).toInt < (s.rd b).toInt) ∧
     goes (exec (.bge a b o) s) ((s.rd b).toInt ≤ (s.rd a).toInt) ∧
     goes (exec (.bltu a b o) s) ((s.rd a).toNat < (s.rd b).toNat) ∧
     goes (exec (.bgeu a b o) s) ((s.rd b).toNat ≤ (s.rd a).toNat) ∧
     goes (exec (.bany a b o) s) (∃ i, (s.rd a).getLsbD i = true ∧ (s.rd b).getLsbD i = true) ∧
     goes (exec (.bnone a b o) s) (∀ i, ((s.rd a).getLsbD i && (s.rd b).getLsbD i) = false)) ∧
  (∀ (s : State) (d a : Reg) (o : BitVec 22) (i : BitVec 18), s.Free [d, a] →
     let links (r : Result) (pc : Word) : Prop :=
       ∃ t, r = .next t ∧ (d ≠ 0 → t.rd d = s.th.pc + 4) ∧ (∀ e, e ≠ d → t.rd e = s.rd e) ∧
         (∀ k, t.mem.read k = s.mem.read k) ∧ t = { s with th := { s.th.tick.counted with w := t.th.w, pc := pc } }
     links (exec (.jal d o) s) (s.th.pc + BitVec.ofInt 64 (4 * o.toInt)) ∧
     ((s.rd a).toNat % 4 = 0 → links (exec (.jalr d a i) s) (s.rd a + BitVec.ofInt 64 (4 * i.toInt)))) ∧
  (∀ (s : State) (d a : Reg) (i : BitVec 18), s.Free [d, a] → s.Settled → s.th.st tSP = false → (s.rd a).toNat % 4 ≠ 0 →
     Traps (exec (.jalr d a i) s) s ⟨0x04, 0, s.rd a + BitVec.ofInt 64 (4 * i.toInt)⟩)

/-- R372 (22_ref_or_utfb.md), whole: SHLI, SHRI and SRAI shift w[a] by their amount, an amount of 0 copies it, nothing else
changes; kind 3 and a nonzero bit in 15:6 are refused by the decoder, so that they raise the illegal-instruction trap; all three
may stand in a repeat frame, where the strides act on d and a alone. -/
def Obligations.ShiftImmediates : Prop :=
  ∀ (s : State) (d a : Reg) (n : BitVec 6), s.Free [d, a] →
    Puts (exec (.shli d a n) s) s d (BitVec.ofNat 64 ((s.rd a).toNat * 2 ^ n.toNat)) ∧
    Puts (exec (.shri d a n) s) s d (BitVec.ofNat 64 ((s.rd a).toNat / 2 ^ n.toNat)) ∧
    Puts (exec (.srai d a n) s) s d (BitVec.ofInt 64 ((s.rd a).toInt / 2 ^ n.toNat)) ∧
    (n = 0 → Puts (exec (.shli d a n) s) s d (s.rd a) ∧ Puts (exec (.shri d a n) s) s d (s.rd a) ∧
      Puts (exec (.srai d a n) s) s d (s.rd a)) ∧
    (∀ w : Half, w.extractLsb' 26 6 = 7#6 → w.extractLsb' 16 2 = 3#2 ∨ w.extractLsb' 6 10 ≠ 0#10 →
      (∃ e, decode w = .error e) ∧ runWord w s = .next (s.takeTrap ⟨0x01, 0, w.setWidth 64⟩)) ∧
    (∀ i : Instr, i = .shli d a n ∨ i = .shri d a n ∨ i = .srai d a n →
      frameAllows i = true ∧ stridedFields i = (true, true, false))

/-- R54 (04_threads.md), whole: w0 reads as zero and m0 as all ones, writes to either are discarded, a mask operand of m0
enables every lane, and v0 keeps what is written to it. -/
def Obligations.FixedRegisters : Prop :=
  (∀ (t : Thread) (x : Word), t.rd 0 = 0 ∧ (t.wr 0 x).rd 0 = 0 ∧ t.wr 0 x = t) ∧
  (∀ (t : Thread) (x : Word), t.rdm 0 = BitVec.allOnes 64 ∧ (t.wrm 0 x).rdm 0 = BitVec.allOnes 64 ∧ t.wrm 0 x = t) ∧
  (∀ (t : Thread) (i : Nat), i < 64 → (t.rdm 0).getLsbD i = true) ∧
  (∀ (t : Thread) (x : Vec), (t.wrv 0 x).rdv 0 = x) ∧
  (∀ (s : State) (a b : Reg), s.Free [a, b] → Puts (exec (.add 0 a b) s) s 0 0) ∧
  (∀ (t : Thread) (r : Reg) (x : Word), r ≠ 0 → (t.wr r x).rd r = x) ∧
  (∀ (t : Thread) (r : BitVec 2) (x : Word), r ≠ 0 → (t.wrm r x).rdm r = x)

/-- An instruction that passes on (08 R126, R138; 01 R10, R11): outside a repeat frame the pc advances by 4; ICNT counts it;
every open lookahead window loses one instruction, and one that is over with its value written is forgotten; everything else
of the thread stays.
RPT (01 R11; 04 R59): when the words that follow can be captured and are all allowed in a frame, the frame starts at pass 0, position 0 with the fields of
RPTST as the word gives them; no other register and no byte of memory changes.
The walk of a repeat frame (01 R11; 04 R59): within a pass the position moves on; after a pass that is not the last the
frame starts again at its first word with the pass one up; after the last pass ACTIVE clears and execution continues at the
instruction that follows; and pass p executes the captured word with d, a and b moved on by p strides modulo 16, and the
immediate as it was. -/
def Obligations.RepeatFrames : Prop :=
  (∀ t : Thread, t.pipe.inFrame = false →
     t.passed.pc = t.pc + 4 ∧ t.passed.ident.icnt = t.ident.icnt + 1 ∧
     (∀ r, t.passed.rd r = t.rd r) ∧ (∀ r, t.passed.rdv r = t.rdv r) ∧ (∀ r, t.passed.rdm r = t.rdm r) ∧
     (∀ p, p ∈ t.passed.pipe.pend ↔
       ∃ q ∈ t.pipe.pend, p = { q with left := q.left - 1, ran := q.ran + 1 } ∧ ¬(q.left ≤ 1 ∧ q.st = .arrived)) ∧
     t.passed = { t with pc := t.passed.pc, ident := { t.ident with icnt := t.passed.ident.icnt },
                         pipe := { t.pipe with pend := t.passed.pipe.pend } }) ∧
  (∀ (s : State) (n : BitVec 8) (l sd sa sb : Reg) (ws : List Half),
     capture s (s.th.pc + 4) (l.toNat + 1) = .ok ws → frameCause (s.th.pc + 4) 0 ws = none → s.th.pipe.inFrame = false →
     ∃ t, exec (.rpt n l sd sa sb) s = .next t ∧
       t.th.pc = s.th.pc + 4 ∧ t.th.pipe.inFrame = true ∧ t.th.pipe.frame = ws ∧
       (let x := t.th.trap.rptst
        x.getLsbD 63 = true ∧ bits x 62 40 = 0 ∧ bits x 39 32 = 0 ∧ bits x 31 24 = n.toNat ∧ bits x 23 20 = 0 ∧
        bits x 19 16 = l.toNat ∧ bits x 15 12 = sd.toNat ∧ bits x 11 8 = sa.toNat ∧ bits x 7 4 = sb.toNat ∧ bits x 3 0 = 0) ∧
       (∀ e, t.rd e = s.rd e) ∧ (∀ k, t.mem.read k = s.mem.read k) ∧
       t = { s with th := { s.th.passed with
         trap := { s.th.trap with rptst := t.th.trap.rptst }
         pipe := { s.th.passed.pipe with inFrame := true, frame := ws } } }) ∧
  ((∀ t : Thread, t.pipe.inFrame = true →
     let x := t.trap.rptst
     let y := t.step4.trap.rptst
     (bits x 23 20 < bits x 19 16 → t.step4.pc = t.pc + 4 ∧ bits y 23 20 = bits x 23 20 + 1 ∧ bits y 39 32 = bits x 39 32 ∧
       y.getLsbD 63 = x.getLsbD 63 ∧ t.step4.pipe = t.pipe) ∧
     (bits x 19 16 ≤ bits x 23 20 → bits x 39 32 < bits x 31 24 →
       t.step4.pc = t.pc - BitVec.ofNat 64 (4 * bits x 19 16) ∧ bits y 23 20 = 0 ∧ bits y 39 32 = bits x 39 32 + 1 ∧
       y.getLsbD 63 = x.getLsbD 63 ∧ t.step4.pipe = t.pipe) ∧
     (bits x 19 16 ≤ bits x 23 20 → bits x 31 24 ≤ bits x 39 32 →
       t.step4.pc = t.pc + 4 ∧ y.getLsbD 63 = false ∧ t.step4.pipe.inFrame = false)) ∧
   (∀ (x : Word) (d a b c : Reg) (i : BitVec 18),
     let p := bits x 39 32
     let mv (r : Reg) (hi lo : Nat) : Reg := r + BitVec.ofNat 4 (p * bits x hi lo)
     decode (stridedWord (.add d a b) (encode (.add d a b)) x) = .ok (.add (mv d 15 12) (mv a 11 8) (mv b 7 4)) ∧
     decode (stridedWord (.sel d a b c) (encode (.sel d a b c)) x) = .ok (.sel (mv d 15 12) (mv a 11 8) (mv b 7 4) c) ∧
     decode (stridedWord (.clz d a) (encode (.clz d a)) x) = .ok (.clz (mv d 15 12) (mv a 11 8)) ∧
     decode (stridedWord (.addi d a i) (encode (.addi d a i)) x) = .ok (.addi (mv d 15 12) (mv a 11 8) i)))

/-! ### Traps, privilege and the special registers -/

/-- Taking a trap (10 R160, 08 R139): with SP clear and nothing of the thread outstanding, TEPC holds the address of the
instruction that did not complete, TCAUSE and TVAL the cause, PRIV becomes supervisor, SP is set, IE stays, and the thread
continues at TVEC.
Results in hand are written before the handler starts (10 R160 step 1): with one result pending and its value in hand, the
register holds the value once the trap is taken, and the others keep theirs.
A result that cannot be withdrawn holds the trap up (10 R160 step 1; 04 R62): while a grant, a job, a barrier, a collective or
a result of the prefix-and-KV unit is outstanding, the trap is only due, no register changes, and a gang is disbanded.
A trap taken while SP = 1 is fatal to the partition (10 R163, R164; 11 R186): the partition is FAILED with cause 1, its status record
names the thread, the code and TVAL, memory stays as it was, and a thread with no result pending keeps all but the copy faults that it
has not taken; in a partition that is FAILED already nothing changes. -/
def Obligations.TakingTraps : Prop :=
  (∀ (s : State) (c : Cause), s.th.st tSP = false → s.Settled → Entered s (s.takeTrap c) c) ∧
  (∀ (s : State) (c : Cause) (r : Reg) (n u : Nat) (pc x q : Word), s.th.st tSP = false → s.th.gang = none → r ≠ 0 →
     s.th.pipe.pend = [⟨wReg r, n, u, pc, .value (x.setWidth 512), q⟩] →
     (s.takeTrap c).rd r = x ∧ (∀ e, e ≠ r → (s.takeTrap c).rd e = s.rd e) ∧ (s.takeTrap c).th.pc = s.th.trap.tvec ∧
       (s.takeTrap c).th.trap.tepc = s.th.pc ∧ (s.takeTrap c).th.st tSP = true) ∧
  (∀ (s : State) (c : Cause), s.th.st tSP = false → (∃ p ∈ s.th.pipe.pend, p.holdsTrap = true) →
     let u := s.breakGang true
     s.takeTrap c = { u with th := { u.th with pipe := { u.th.pipe with trapDue := some c } } }) ∧
  (∀ (s : State) (c : Cause), s.th.st tSP = true → s.part.state = 3 → s.takeTrap c = s) ∧
  (∀ (s : State) (c : Cause), s.th.st tSP = true → s.part.state ≠ 3 → s.Quiet → s.part.iport = false ∨ bits s.modl.startStatus 3 0 ≠ 15 →
     let t := s.takeTrap c
     t.part.state = 3 ∧ t.part.cause = 1 ∧ t.part.code = c.code ∧ t.part.place = s.th.tid ∧ t.part.val = c.tval ∧
     (s.th.pipe.pend = [] → s.th.part = s.part.num →
       t.th = { s.th with pipe := { s.th.pipe with async := s.th.pipe.async.filter (·.code ≠ 0x0B) } }) ∧
     (s.core.owner = some s.part.num → t.core.jobs = []) ∧ t.mem = s.mem ∧ t.parts = s.parts ∧
     t.part = { s.part with state := 3, cause := 1, code := c.code, place := s.th.tid, val := c.tval } ∧
     t.modl.out = s.modl.out ++ [.interrupt s.part.iport true])

/-- The lookahead violation (01 R10, 08 R140, R141): an instruction that reads or writes a register in an open window of one of
the thread's results takes trap 0x03 with the register in DETAIL and the word in TVAL, whether or not the value has come: scalar and vector
registers, both of a pair, and those that the encoding does not name, as w1 to w4 of a WFW. An instruction with a check of privilege or of the
thread's state may take that check's trap before, and a RELEASE whose HOLD has no grant waits; where the check finds nothing it takes 0x03. -/
def Obligations.LookaheadViolation : Prop :=
  ∀ (s : State) (i : Instr) (p : Pending) (rest : List Pending), s.th.pipe.pend = p :: rest → 0 < p.left → p.reg ∈ touches i →
    let traps (code detail : Byte) : Prop := exec i s = .next (s.takeTrap ⟨code, detail, (encode i).setWidth 64⟩)
    let violates : Prop := traps 0x03 (p.reg.setWidth 8)
    (checksFirst i = false → violates) ∧
    (checksFirst i = true → violates ∨ traps 0x01 0 ∨ traps 0x02 0 ∨ (∃ d a m, i = .release d a m) ∧ s.awaiting = true) ∧
    (∀ d a b c l m n, s.th.gang = none → i = .wfw d ∨ i = .mig d a ∨ i = .fconf d a ∨ i = .funw d a ∨ i = .abop d a b c ∨
      s.th.holding = none ∧ (i = .hold d a m l ∨ i = .pfxins d a b l ∨ i = .kvapp d a b c l) ∨
      s.th.bound = false ∧ i = .sendv d a b c ∨ s.th.st tSP = false ∧ i = .roll a ∨
      (n ≤ 0x008#12 ∧ i = .mfs d n ∨ n ≤ 0x008#12 ∧ i = .mts a n) → violates)

/-- Access to the special registers (08 R137, R138, R140): an unlisted number is illegal at every privilege; a register closed
to the user raises the privileged trap for a user alone; TVAL holds the word. -/
def Obligations.SpecialRegisterPrivilege : Prop :=
  ∀ (s : State) (r : Reg) (c : BitVec 12),
    let listed := c ≤ 0x008#12 ∨ (0x010#12 ≤ c ∧ c ≤ 0x013#12) ∨ (0x020#12 ≤ c ∧ c ≤ 0x02A#12) ∨ c = 0x030#12 ∨ c = 0x031#12 ∨
      c = 0x038#12 ∨ c = 0x039#12 ∨ (0x040#12 ≤ c ∧ c ≤ 0x046#12) ∨ c = 0x050#12 ∨ c = 0x051#12 ∨
      (0x060#12 ≤ c ∧ c ≤ 0x065#12) ∨ (0x070#12 ≤ c ∧ c ≤ 0x0AF#12)
    let closed := (0x040#12 ≤ c ∧ c ≤ 0x046#12) ∨ (0x060#12 ≤ c ∧ c ≤ 0x065#12)
    (¬listed →
      exec (.mfs r c) s = .next (s.takeTrap ⟨0x01, 0, (encode (.mfs r c)).setWidth 64⟩) ∧
      exec (.mts r c) s = .next (s.takeTrap ⟨0x01, 0, (encode (.mts r c)).setWidth 64⟩)) ∧
    (closed → bits s.th.tstat 1 0 = 0 →
      exec (.mfs r c) s = .next (s.takeTrap ⟨0x02, 0, (encode (.mfs r c)).setWidth 64⟩) ∧
      exec (.mts r c) s = .next (s.takeTrap ⟨0x02, 0, (encode (.mts r c)).setWidth 64⟩))

/-- MFS (08 R138, 21 R358; 03 R32): each special register of R138 reads as the state that holds it, those closed to the user at supervisor
privilege, and nothing but w[d] changes. PART gives H − 1, W − 1 and the partition's number; CKPT reads as zero; CLK is within 2 ns of the
nanoseconds since module start (log entry 7: the deviation is a free value); HZN is the horizon of a bound thread's axis and else 0; FSTAT is 0
outside a frame axis, and on one gives RVT, the tokens retained, the frames and RWD in their fields; BARCNTn is the partition's. -/
def Obligations.SpecialRegisterReads : Prop :=
  ∀ (s : State) (d : Reg), s.Free [d] → s.core.cid = s.th.cid → s.core.log.enabled = false → s.core.log.replay = [] →
    let reads (n : BitVec 12) (x : Word) : Prop := Puts (exec (.mfs d n) s) s d x
    let open_ : List (BitVec 12 × Word) :=
      [(0x000, s.th.ident.wid), (0x001, s.th.ident.widw), (0x002, s.th.ident.org), (0x003, s.th.ident.ext),
       (0x004, BitVec.ofNat 64 (s.th.ident.ly.toNat * 64 + s.th.ident.lx.toNat)),
       (0x005, BitVec.ofNat 64 (s.th.tid.toNat / 8)), (0x006, BitVec.ofNat 64 (s.th.tid.toNat % 8)),
       (0x007, s.th.ident.gidx.setWidth 64),
       (0x008, BitVec.ofNat 64 (s.part.hm1.toNat * 2 ^ 24 + s.part.wm1.toNat * 2 ^ 16 + s.part.num.toNat)),
       (0x011, s.th.ident.icnt), (0x012, s.core.msent), (0x013, s.core.mrecv),
       (0x020, s.th.ax.lvt), (0x021, s.th.ax.axis), (0x023, s.th.rw.rstk), (0x024, s.th.rw.rsbase), (0x025, s.th.rw.rslim),
       (0x026, s.th.rw.rbvec), (0x027, s.th.ring.mrbase), (0x028, s.th.ring.mrsize), (0x02A, 0), (0x030, s.th.pipe.ebud),
       (0x031, s.core.eallow), (0x038, s.core.wlbase), (0x039, s.core.wlsize), (0x050, s.core.mx.mxerr), (0x051, s.core.mx.mxloc)]
    let closed : List (BitVec 12 × Word) :=
      [(0x040, s.th.tstat), (0x041, s.th.trap.tvec), (0x042, s.th.trap.tepc), (0x043, s.th.trap.tcause), (0x044, s.th.trap.tval),
       (0x045, s.th.trap.tscr), (0x046, s.th.trap.rptst), (0x060, s.part.ptroot), (0x061, s.part.asid.setWidth 64),
       (0x062, s.part.ctbase), (0x063, s.part.sbmwin), (0x064, s.part.ctmiss), (0x065, s.part.cttrap)]
    let frame := s.axisOf (BitVec.ofNat 14 s.th.axisNum)
    (∀ e ∈ open_, reads e.1 e.2) ∧
    (bits s.th.tstat 1 0 ≠ 0 → ∀ e ∈ closed, reads e.1 e.2) ∧
    (∀ n : BitVec 6, reads (0x070 + n.setWidth 12) (s.part.bar n)) ∧
    (∃ e ≤ 4, reads 0x010 (BitVec.ofNat 64 ((s.cycle - s.modl.startedAt) / 2 + e - 2))) ∧
    reads 0x022 (if s.th.bound then s.axisHorizon s.th.part s.th.axisNum else 0) ∧
    (s.th.bound = false ∨ s.th.axisMode ≠ 1 → reads 0x029 0) ∧
    (s.th.bound = true → s.th.axisMode = 1 → frame.frames.length ≤ 8 → frame.tokens.length ≤ 256 → s.th.ax.rvt.toNat < 2 ^ 32 →
      ∃ x, reads 0x029 x ∧ bits x 31 0 = s.th.ax.rvt.toNat ∧ bits x 47 32 = frame.tokens.length ∧
        bits x 61 48 = frame.frames.length ∧ x.getLsbD 62 = s.th.ax.rwd)

/-- MTS (08 R126, R137 to R139; 02 R15; 03 R37, R43; 04 R55, R59, R63; 05 R86; 09 R153; 11 R195; 15 R235, R244, R246; 16 R257; 21 R358): each
special register of R138 takes the fields that it has, with its own effects, and every other register and every byte of memory stays; one marked R
at the thread's privilege takes nothing, as EALLOW and BARCNTn from a user. RSBASE and RSLIM empty the rewind stack at the new RSBASE, and RSTK at
the value written, if that lies inside the region; MRBASE and MRSIZE empty the ring; WLBASE and WLSIZE the work list; PTROOT removes the ASID's
translations from every TLB; a COUNT that completes its barrier's generation does so at once; CKPT pushes a checkpoint that resumes at the next
instruction, for a bound thread. RPTST is said outside a repeat frame, whose passes move its POS themselves. -/
def Obligations.SpecialRegisterWrites : Prop :=
  ∀ (s : State) (a : Reg), s.Free [a] →
    let x := s.rd a
    let p := s.th.passed
    let passes (e : BitVec 12) : Prop := exec (.mts a e) s = .next { s with th := p }
    let off := BitVec.ofNat 64 (x.toNat % 2 ^ 21 / 32 * 32)
    let stack (e : BitVec 12) (base lim top : Word) : Prop := ∃ n, exec (.mts a e) s = .next { s with th := { p with
      rw := { s.th.rw with rsbase := base, rslim := lim, rstk := top, count := 0, bottom := n, newest := none, marks := [] } } }
    let ring (e : BitVec 12) (base size : Word) : Prop := ∃ t, exec (.mts a e) s = .next t ∧ t.th.ring.mrbase = base ∧ t.th.ring.mrsize = size ∧
      t.th.ring.used = 0 ∧ t.th.ring.seq = s.th.ring.seq ∧ ((∀ m ∈ s.messages, m.st ≠ .heldAtReceiver) → t.messages = s.messages) ∧
      t = { s with th := { p with ring := t.th.ring }, messages := t.messages }
    let list (e : BitVec 12) (base size : Word) : Prop := exec (.mts a e) s = .next { s with
      th := p, core := { s.core with wlbase := base, wlsize := size, wlHead := 0, wlCount := 0 } }
    ((∀ e : BitVec 12, e ∈ ([0x000, 0x001, 0x002, 0x003, 0x004, 0x005, 0x006, 0x007, 0x008, 0x010, 0x011, 0x012, 0x013, 0x020, 0x021,
        0x022, 0x029, 0x030, 0x051] : List (BitVec 12)) → passes e) ∧
      exec (.mts a 0x026) s = .next { s with th := { p with rw := { p.rw with rbvec := BitVec.ofNat 64 (x.toNat / 4 * 4) } } } ∧
      stack 0x024 off s.th.rw.rslim off ∧ stack 0x025 s.th.rw.rsbase off s.th.rw.rsbase ∧
      (if s.th.rw.base ≤ off.toNat ∧ off.toNat < s.th.rw.limit then stack 0x023 s.th.rw.rsbase s.th.rw.rslim off else passes 0x023) ∧
      ring 0x027 (BitVec.ofNat 64 (x.toNat % 2 ^ 21 / 16 * 16)) s.th.ring.mrsize ∧
      ring 0x028 s.th.ring.mrbase (BitVec.ofNat 64 (x.toNat % 2 ^ 22 / 128 * 128)) ∧
      list 0x038 (BitVec.ofNat 64 (x.toNat % 2 ^ 21 / 16 * 16)) s.core.wlsize ∧
      list 0x039 s.core.wlbase (BitVec.ofNat 64 (Nat.min (x.toNat % 2 ^ 17) 65536)) ∧
      (∃ t, exec (.mts a 0x050) s = .next t ∧ t.core.mx.mxerr.getLsbD 8 = x.getLsbD 8 ∧
        (∀ b, b < 3 → t.core.mx.mxerr.getLsbD b = (s.core.mx.mxerr.getLsbD b && !x.getLsbD b)) ∧
        (∀ b, b ∉ [0, 1, 2, 8] → t.core.mx.mxerr.getLsbD b = s.core.mx.mxerr.getLsbD b) ∧
        (∀ b, t.core.mx.mxloc.getLsbD b = (s.core.mx.mxloc.getLsbD b && (b != 63 || t.core.mx.mxerr.getLsbD 0))) ∧
        t = { s with th := p, core := { s.core with mx := { s.core.mx with mxerr := t.core.mx.mxerr, mxloc := t.core.mx.mxloc } } }) ∧
      (s.th.bound = false → passes 0x02A) ∧
      (s.th.bound = true → s.th.st tSP = false → s.th.st tUNW = false → s.Calm → s.Canonical → 5 ≤ s.th.rw.free →
        ∃ t, exec (.mts a 0x02A) s = .next t ∧ (∀ e, t.rd e = s.rd e) ∧ t.th.pc = s.th.step4.pc ∧ t.th.ax.pushno = s.th.ax.pushno + 5 ∧
          t.th.rw.count ≤ s.th.rw.count + 5 ∧ (s.hznOf s.th = 0 → t.th.rw.count = s.th.rw.count + 5) ∧
          let r := t.recordAt t.th (t.th.rw.down t.th.rw.top 1)
          r.1 = s.th.ax.lvt ∧ recordKind r.2.1 = 5 ∧ (bits (s.th.pc + 4) 61 48 = 0 → recordAddr r.2.1 = s.th.pc + 4))) ∧
    (bits s.th.tstat 1 0 = 0 → passes 0x031 ∧ ∀ n : BitVec 6, passes (0x070 + n.setWidth 12)) ∧
    (bits s.th.tstat 1 0 ≠ 0 →
      passes 0x061 ∧ passes 0x063 ∧
      exec (.mts a 0x041) s = .next { s with th := { p with trap := { p.trap with tvec := BitVec.ofNat 64 (x.toNat / 4 * 4) } } } ∧
      exec (.mts a 0x042) s = .next { s with th := { p with trap := { p.trap with tepc := BitVec.ofNat 64 (x.toNat / 4 * 4) } } } ∧
      exec (.mts a 0x043) s = .next { s with th := { p with trap := { p.trap with tcause := BitVec.ofNat 64 (x.toNat % 2 ^ 16) } } } ∧
      exec (.mts a 0x044) s = .next { s with th := { p with trap := { p.trap with tval := x } } } ∧
      exec (.mts a 0x045) s = .next { s with th := { p with trap := { p.trap with tscr := x } } } ∧
      exec (.mts a 0x031) s = .next { s with th := p, core := { s.core with eallow := BitVec.ofNat 64 (x.toNat % 2 ^ 32) } } ∧
      exec (.mts a 0x062) s = .next { s with th := p, part := { s.part with
        ctbase := BitVec.ofNat 64 (x.toNat % 2 ^ 32 / 2 ^ 11 * 2 ^ 11 + x.toNat % 2) } } ∧
      exec (.mts a 0x064) s = .next { s with th := p, part := { s.part with ctmiss := BitVec.ofNat 64 (x.toNat % 2 ^ 32) } } ∧
      exec (.mts a 0x065) s = .next { s with th := p, part := { s.part with cttrap := BitVec.ofNat 64 (x.toNat % 2) } } ∧
      (∃ t, exec (.mts a 0x060) s = .next t ∧ (∀ c, ∀ e ∈ (t.coreOf c).tlb, e.asid ≠ s.part.asid) ∧ (∀ e ∈ t.tlb2, e.2.asid ≠ s.part.asid) ∧
        t = { s with th := p, part := { s.part with ptroot := BitVec.ofNat 64 (x.toNat % 2 ^ 41 / 2 ^ 12 * 2 ^ 12) },
                     core := { s.core with tlb := t.core.tlb }, cores := t.cores, tlb2 := t.tlb2 }) ∧
      (∀ n : BitVec 6,
        let y := s.part.bar n
        let c := x.toNat % 2 ^ 17
        let ends : Prop := c = 0 ∧ barArr y ≠ 0 ∨ c ≠ 0 ∧ c ≤ barArr y
        ∃ t, exec (.mts a (0x070 + n.setWidth 12)) s = .next t ∧ barCount (t.part.bar n) = c ∧ (∀ m, m ≠ n → t.part.bar m = s.part.bar m) ∧
          (¬ends → barArr (t.part.bar n) = barArr y ∧ barGen (t.part.bar n) = barGen y ∧
            t = { s with th := p, part := { s.part with barcnt := t.part.barcnt } }) ∧
          (ends → barArr (t.part.bar n) = 0 ∧ barGen (t.part.bar n) = (barGen y + 1) % 2 ^ 24 ∧ (s.Quiet → t.mem = s.mem) ∧
            ((∀ q ∈ s.th.pipe.pend, q.st ≠ .barrier n true) → t.th = p))) ∧
      (∃ t, exec (.mts a 0x040) s = .next t ∧ t = { s with th := { p with tstat := t.th.tstat } } ∧
        (∀ b, b ∈ [9, 8, 3, 2] → t.th.tstat.getLsbD b = x.getLsbD b) ∧
        (∀ b, b ∈ [0, 1, 4, 6, 7] → t.th.tstat.getLsbD b = s.th.tstat.getLsbD b) ∧
        t.th.tstat.getLsbD 5 = (s.th.tstat.getLsbD 5 && !x.getLsbD 5)) ∧
      (s.th.pipe.inFrame = false → ∃ t, exec (.mts a 0x046) s = .next t ∧ t = { s with th := { p with trap := { p.trap with rptst := t.th.trap.rptst } } } ∧
        ∀ b, b < 64 → t.th.trap.rptst.getLsbD b = if b ∈ [0, 1, 2, 3] ∨ 40 ≤ b ∧ b < 63 then false else x.getLsbD b))

/-- ECALL and EBRK (10 R161): trap 0x10 with the service number, and 0x11 with the tag, in TVAL, TEPC holding the
instruction's own address; with break-to-debugger the partition is HALTED instead, its cores freeze MSENT, MRECV and ICNT (10 R173), and the thread stays at the EBRK; that
all halt in the same step is the model's choice (log entry 69).
TRET (10 R161, 22 R378): in a handler, with no access held and no frame to resume, pc := TEPC, PRIV := the base privilege
and SP := 0, and nothing else changes but ICNT and the open windows; for a user it is privileged, and outside a handler
illegal.
WAITI (10 R161, 23 R396): with IE = 0, or with SP = 1 and an interrupt pending, it only passes; otherwise the thread parks at
it. HALT (01 R7, 21 R341): with nothing outstanding the thread's slot is freed, and no byte of memory and no other thread
changes. -/
def Obligations.SystemGroup : Prop :=
  (∀ (s : State) (n : BitVec 12), s.Settled → s.th.st tSP = false →
     Traps (exec (.ecall n) s) s ⟨0x10, 0, n.setWidth 64⟩ ∧
     (s.part.brk = false → Traps (exec (.ebrk n) s) s ⟨0x11, 0, n.setWidth 64⟩) ∧
     (s.part.brk = true → s.part.live = true → s.part.state = 0 →
       ∃ t, exec (.ebrk n) s = .next t ∧ t.part = { s.part with state := 1, wdRun := s.part.wdCount s.cycle } ∧ t.th = s.th ∧
         t.mem = s.mem ∧ t.parts = s.parts ∧ ((∀ o ∈ s.others, o.pipe.pend = []) → t.others = s.others) ∧
         (∀ c, (s.coreOf c).owner = some s.part.num → t.coreOf c = { s.coreOf c with frozen := some ((s.coreOf c).msent :: (s.coreOf c).mrecv ::
           (List.range 8).map fun k => (s.thread (mkTid c (BitVec.ofNat 3 k))).ident.icnt) }) ∧
         t = { s with part := t.part, core := t.core, cores := t.cores, others := t.others })) ∧
  (∀ s : State,
     (bits s.th.tstat 1 0 ≠ 0 → s.th.st tSP = true → s.th.trap.rptst.getLsbD 63 = false → s.th.pipe.held = [] →
       ∃ t, exec .tret s = .next t ∧ t.th.pc = s.th.trap.tepc ∧ t.th.st tSP = false ∧
         bits t.th.tstat 1 0 = (if s.th.base then 1 else 0) ∧ (∀ b, b ≠ tSP → 2 ≤ b → t.th.st b = s.th.st b) ∧
         (∀ e, t.rd e = s.rd e) ∧ (∀ k, t.mem.read k = s.mem.read k) ∧
         t = { s with th := { s.th.tick.counted with
           pc := t.th.pc, tstat := t.th.tstat, pipe := { s.th.tick.pipe with inFrame := false, frame := [], park := none } } }) ∧
     (bits s.th.tstat 1 0 = 0 → exec .tret s = .next (s.takeTrap ⟨0x02, 0, (encode .tret).setWidth 64⟩)) ∧
     (bits s.th.tstat 1 0 ≠ 0 → s.th.st tSP = false → exec .tret s = .next (s.takeTrap ⟨0x01, 0, (encode .tret).setWidth 64⟩))) ∧
  (∀ s : State,
     (s.th.st tIE = false ∨ s.th.st tSP = true ∧ s.th.pipe.irq ≠ 0 → exec .waiti s = .next { s with th := s.th.passed }) ∧
     (s.th.st tIE = true → s.th.st tSP = false → ∃ t, exec .waiti s = .next t ∧ t.th.pipe.park = some .interrupt ∧
       t.th.pc = s.th.pc ∧ (∀ e, t.rd e = s.rd e) ∧ (∀ k, t.mem.read k = s.mem.read k)) ∧
     (s.th.st tBOOST = false → s.th.bound = false → s.th.holding = none → s.th.pipe.held = [] → s.th.pipe.pend = [] →
       s.th.pipe.plainOut = false →
       (∀ w ∈ s.waiters, w.owner ≠ some s.th.tid) → s.core.jobs = [] → s.core.cq = [] →
       ∃ t, exec .halt s = .next t ∧ t.th.active = false ∧ t.th.tid = s.th.tid ∧ (∀ e, t.rd e = 0) ∧
         (∀ k, t.mem.read k = s.mem.read k) ∧ (∀ n, n ≠ s.th.tid → n ≠ s.th.home → t.thread n = s.thread n) ∧
         (s.th.home = s.th.tid → t.others = s.others)))

/-! ### Memory -/

/-- LD and LDS (21 R350, 08 R131): at an aligned address that reaches an ordinary place, w[d] becomes the bytes there,
little-endian, extended with zeros or with copies of the top bit.
A plain load while a plain store of the thread has not been acknowledged waits in issue, nothing having changed (06 R92, 01 R9). -/
def Obligations.Loads : Prop :=
  (∀ (s : State) (d a la : Reg) (sz : BitVec 2) (x : BitVec 1) (m : BitVec 10) (pl : Place), s.Free [d, a] → s.Calm →
    s.th.st tROAM = false →
    let n := 2 ^ sz.toNat
    let addr := s.rd a + m.signExtend 64 * BitVec.ofNat 64 n
    s.Reaches (if x = 1 then .loadRx else .load) n addr pl →
    (∃ v, Loaded s pl.key n false v ∧ PutsLate (exec (.ld d a sz x m la) s) s d la v) ∧
    (∃ v, Loaded s pl.key n true v ∧ PutsLate (exec (.lds d a sz x m la) s) s d la v)) ∧
  (∀ (s : State) (d a la : Reg) (sz : BitVec 2) (m : BitVec 10) (pl : Place), s.Free [d, a] → s.th.pipe.held = [] →
    s.th.pipe.plainOut = true →
    let n := 2 ^ sz.toNat
    resolve s s.th.agent .load n (s.rd a + m.signExtend 64 * BitVec.ofNat 64 n) = .ok pl →
    ∃ c n, let waits : State := { s with th := { s.th with pipe := { s.th.pipe with park := some .issue, parkedAt := c, parkSeq := n } } }
      exec (.ld d a sz 0 m la) s = .next waits ∧ exec (.lds d a sz 0 m la) s = .next waits)

/-- ST (22 R373, 08 R131): at an aligned address that reaches an ordinary place, the low bytes of w[d] are stored there,
little-endian; every other byte, every register and every full/empty bit stays.
A store to a word that another thread holds waits behind the hold (03 R49): it is issued, its bytes are not written yet, and the
request stands at the memory. -/
def Obligations.Stores : Prop :=
  (∀ (s : State) (d a : Reg) (sz : BitVec 2) (x : BitVec 1) (m : BitVec 10) (pl : Place), s.Free [d, a] → s.Calm → s.Unlogged →
     s.Canonical →
     let n := 2 ^ sz.toNat
     let addr := s.rd a + m.signExtend 64 * BitVec.ofNat 64 n
     s.Reaches .store n addr pl → s.heldByOther (some s.th.tid) pl.key n = none →
     ∃ t, exec (.st d a sz x m) s = .next t ∧ Stored s t pl.key n (s.rd d) ∧ (∀ e, t.rd e = s.rd e) ∧
       t = { s with mem := t.mem, poison := t.poison, th := { s.th.passed with pipe := { s.th.passed.pipe with
         plainOut := if x = 1 then s.th.pipe.plainOut else true, posted := t.th.pipe.posted, peerPosts := t.th.pipe.peerPosts } } }) ∧
  (∀ (s : State) (d a : Reg) (sz : BitVec 2) (x : BitVec 1) (m : BitVec 10) (pl : Place) (h : HeldWord), s.Free [d, a] → s.Calm →
     s.Unlogged →
     let n := 2 ^ sz.toNat
     let addr := s.rd a + m.signExtend 64 * BitVec.ofNat 64 n
     s.Reaches .store n addr pl → s.heldByOther (some s.th.tid) pl.key n = some h →
     ∃ t w, exec (.st d a sz x m) s = .next t ∧ t.waiters = s.waiters ++ [w] ∧ w.owner = some s.th.tid ∧ w.place = pl.key ∧
       w.size = n ∧ w.data = (s.rd d).setWidth 512 ∧ (∀ k, t.mem.read k = s.mem.read k) ∧ (∀ e, t.rd e = s.rd e) ∧
       t.th.pc = s.th.step4.pc)

/-- The address checks of a load or store (03 R30, R31, R33, 08 R141): a nonzero must-be-zero bit raises invalid address, and so does a
place that never takes such an access (05 R84; 10 R176); then a misaligned address raises misaligned, and then a local address outside
the partition raises bounds; TVAL holds the address, and nothing is loaded or stored. -/
def Obligations.AddressChecks : Prop :=
  ∀ (s : State) (d a la : Reg) (sz : BitVec 2) (x : BitVec 1) (m : BitVec 10), s.Free [d, a] → s.Settled → s.th.pipe.held = [] →
    s.th.st tSP = false →
    let n := 2 ^ sz.toNat
    let addr := s.rd a + m.signExtend 64 * BitVec.ofNat 64 n
    let loads (c : Byte) : Prop := Traps (exec (.ld d a sz x m la) s) s ⟨c, 0, addr⟩ ∧ Traps (exec (.lds d a sz x m la) s) s ⟨c, 0, addr⟩
    let stores (c : Byte) : Prop := Traps (exec (.st d a sz x m) s) s ⟨c, 0, addr⟩
    let checks (ac : Access) (traps : Byte → Prop) : Prop :=
      (∀ pl lf, addrMbz addr = true → placeOf s s.th.agent ac n addr = .ok (pl, lf) → pl.refuses ac = true → traps 0x05) ∧
      (addrMbz addr = true → addr.toNat % n ≠ 0 →
        (∀ pl lf, placeOf s s.th.agent ac n addr = .ok (pl, lf) → pl.refuses ac = false) → traps 0x04)
    (addrMbz addr = false → loads 0x05 ∧ stores 0x05) ∧
    checks (if x = 1 then .loadRx else .load) loads ∧ checks .store stores ∧
    (addrMbz addr = true → addr.toNat % n = 0 → addrSpace addr = 0 ∨ addrSpace addr = 3 →
      resolveLocal (s.partOf s.th.part) s.th.agent addr = none → loads 0x06 ∧ stores 0x06)

/-- The loads of the full/empty group (03 R46, R47; 20 R336, 21 R351): LDF and LDFE of a full word load it, and LDFE leaves it empty;
FETEST reads the bit and changes nothing; at an empty word LDF and LDFE leave their request at the memory and load nothing, and their
result is pending unless it goes to w0 (04 R57). -/
def Obligations.FullEmptyLoads : Prop :=
  ∀ (s : State) (d a la : Reg) (m : BitVec 10) (pl : Place), s.Free [d, a] → s.Calm →
    let addr := s.rd a + m.signExtend 64 * 8
    s.Unwatched pl.key 8 →
    (s.Reaches .feRead 8 addr pl → s.isFull pl.key = true →
      ∃ v, Loaded s pl.key 8 false v ∧ PutsLate (exec (.ldf d a m la) s) s d la v) ∧
    (s.Reaches .feBoth 8 addr pl → s.isFull pl.key = true →
      ∃ v e, Loaded s pl.key 8 false v ∧ BitIs s { s with empties := e } pl.key false ∧
        PutsLate (exec (.ldfe d a m la) s) { s with empties := e } d la v) ∧
    (s.Reaches .feRead 8 addr pl →
      PutsLate (exec (.fetest d a m la) s) s d la (if s.isFull pl.key then 1 else 0)) ∧
    let asks (i : Instr) (op : WaitOp) (take : Bool) : Prop :=
      ∃ t w, exec i s = .next t ∧ t.waiters = s.waiters ++ [w] ∧ w.owner = some s.th.tid ∧ w.place = pl.key ∧
        w.op = op ∧ (∀ e, t.rd e = s.rd e) ∧ (∀ k, t.mem.read k = s.mem.read k) ∧ t.empties = s.empties ∧ t.th.pc = s.th.step4.pc ∧
        (d = 0 → t.th.pipe.pend = s.th.passed.pipe.pend) ∧
        (d ≠ 0 → ∃ p ∈ t.th.pipe.pend, p.reg = wReg d ∧ p.left = la.toNat ∧ p.st = .full pl.key take)
    (s.Reaches .feRead 8 addr pl → s.isFull pl.key = false → asks (.ldf d a m la) .ldf false) ∧
    (s.Reaches .feBoth 8 addr pl → s.isFull pl.key = false → asks (.ldfe d a m la) .ldfe true)

/-- The stores of the full/empty group (03 R46, R47; 20 R336): STF stores w[d] and sets the word full, STEF does so when the
word is empty, and FESET stores nothing and makes the bit bit 0 of w[d]; no register and no other byte or bit changes. STEF of
a full word parks, and stores nothing. -/
def Obligations.FullEmptyStores : Prop :=
  ∀ (s : State) (d a : Reg) (m : BitVec 10) (pl : Place), s.Free [d, a] → s.Calm → s.Unlogged → s.Canonical →
    let addr := s.rd a + m.signExtend 64 * 8
    s.Unwatched pl.key 8 →
    (s.Reaches .stf 8 addr pl →
      ∃ t, exec (.stf d a m) s = .next t ∧ Stored s t pl.key 8 (s.rd d) ∧ BitIs s t pl.key true ∧ (∀ e, t.rd e = s.rd e) ∧
        t.th.pc = s.th.step4.pc ∧ t.others = s.others ∧ t.waiters = s.waiters) ∧
    (s.Reaches .feWrite 8 addr pl → s.isFull pl.key = false →
      ∃ t, exec (.stef d a m) s = .next t ∧ Stored s t pl.key 8 (s.rd d) ∧ BitIs s t pl.key true ∧ (∀ e, t.rd e = s.rd e) ∧
        t.th.pc = s.th.step4.pc ∧ t.others = s.others ∧ t.waiters = s.waiters) ∧
    (s.Reaches .feWrite 8 addr pl → s.isFull pl.key = true →
      ∃ t, exec (.stef d a m) s = .next t ∧ t.th.pipe.park = some (.full pl.key) ∧ t.th.pc = s.th.pc ∧
        (∀ k, t.mem.read k = s.mem.read k) ∧ t.empties = s.empties ∧ t.waiters.length = s.waiters.length + 1) ∧
    (s.Reaches .feWrite 8 addr pl →
      ∃ t, exec (.feset d a m) s = .next t ∧ (∀ k, t.mem.read k = s.mem.read k) ∧ BitIs s t pl.key ((s.rd d).getLsbD 0) ∧
        (∀ e, t.rd e = s.rd e) ∧ t.th.pc = s.th.step4.pc ∧ t.others = s.others ∧ t.waiters = s.waiters)

/-- HOLD and RELEASE (03 R48, R49; 21 R342, 22 R367): a free word is granted at once, its value in w[d] and the thread its holder;
RELEASE by the holder stores w[d], and the word is held no more when no reservation waits. A HOLD while the thread holds a word
is illegal, and a RELEASE while its HOLD has no grant waits in issue. -/
def Obligations.HeldWords : Prop :=
  (∀ (s : State) (d a : Reg) (m : BitVec 10), s.awaiting = true → ∃ c n, exec (.release d a m) s =
    .next { s with th := { s.th with pipe := { s.th.pipe with park := some .issue, parkedAt := c, parkSeq := n } } }) ∧
  ∀ (s : State) (d a la : Reg) (m : BitVec 10) (pl : Place), s.Free [d, a] → s.Calm → s.Canonical →
    let addr := s.rd a + m.signExtend 64 * 8
    s.Reaches .feBoth 8 addr pl →
    (s.th.holding = none → s.held.find? (·.key = pl.key) = none →
      ∃ v h, Loaded s pl.key 8 false v ∧ h.key = pl.key ∧ h.holder = .thread s.th.tid ∧ h.since = s.cycle ∧ h.queue = [] ∧
        PutsLate (exec (.hold d a m la) s)
          { s with held := s.held ++ [h], th := { s.th with holding := some pl.key, holdAddr := s.absAddr addr } } d la v) ∧
    (∀ h, s.held = [h] → h.key = pl.key → h.holder = .thread s.th.tid → h.queue = [] → s.th.holding = some pl.key →
      s.th.holdAddr = s.absAddr addr → (∀ w ∈ s.waiters, ¬(wordKey w.place ≤ wordKey pl.key ∧ wordKey pl.key < w.place + w.size)) →
      ∃ t, exec (.release d a m) s = .next t ∧ Stored s t pl.key 8 (s.rd d) ∧ t.held = [] ∧ t.th.holding = none ∧
        (∀ e, t.rd e = s.rd e) ∧ t.th.pc = s.th.step4.pc ∧ t.empties = s.empties) ∧
    (s.th.holding ≠ none → exec (.hold d a m la) s = .next (s.takeTrap ⟨0x01, 0, (encode (.hold d a m la)).setWidth 64⟩))

/-- FAR (03 R51, R52; 20 R332): the SBM word becomes the combination of its old value and w[d] in one access; no register
changes. Outside SBM the address is invalid. -/
def Obligations.FarOperations : Prop :=
  ∀ (s : State) (d a o : Reg) (m : BitVec 10) (pl : Place), s.Free [d, a] → s.Calm → s.Canonical →
    let addr := s.rd a + m.signExtend 64 * 8
    let old := s.mem.word pl.key
    let x := s.rd d
    (addrSpace addr = 1 → s.Reaches .store 8 addr pl → s.Unwatched pl.key 8 →
      ∃ t v, exec (.far d a o m) s = .next t ∧ Stored s t pl.key 8 v ∧ (∀ e, t.rd e = s.rd e) ∧ t.th.pc = s.th.step4.pc ∧
        t.empties = s.empties ∧ t.others = s.others ∧
        (o = 0 → v = old + x) ∧ (o = 1 → v = if old.toInt < x.toInt then x else old) ∧
        (o = 2 → v = if x.toInt < old.toInt then x else old) ∧ (o = 3 → v = old &&& x) ∧ (o = 4 → v = old ||| x) ∧
        (o = 5 → v = old ^^^ x)) ∧
    (addrSpace addr ≠ 1 → s.Settled → s.th.st tSP = false → Traps (exec (.far d a o m) s) s ⟨0x05, 0, addr⟩)

/-- The fences (06 R95, R97; 20 R334, R335): with nothing outstanding they only pass, and FENCE.I empties the instruction cache of
the core; a relaxed access outstanding holds FENCE device up; FENCE system with a host or peer store outstanding goes by, and stands over
the thread's next issue (R97). -/
def Obligations.Fences : Prop :=
  ∀ s : State, s.th.pipe.held = [] →
    ((∀ w ∈ s.waiters, w.owner ≠ some s.th.tid) →
      exec .fenceGroup s = .next { s with th := s.th.passed } ∧
      exec .fenceDevice s = .next { s with th := s.th.passed } ∧
      (s.th.pipe.lost = none → s.th.postsOut = false → exec .fenceSystem s = .next { s with th := s.th.passed }) ∧
      (s.th.pipe.lost = none → s.th.postsOut = true → s.th.gang = none → exec .fenceSystem s =
        .next { s with th := { s.th.passed with pipe := { s.th.passed.pipe with fence := some s.th.pc } } }) ∧
      exec .fenceI s = .next { s with th := s.th.passed, core := { s.core with icache := [] } }) ∧
    (∀ w ∈ s.waiters, w.owner = some s.th.tid → w.op.relaxed = true →
      ∃ t, exec .fenceDevice s = .next t ∧ t.th.pc = s.th.pc ∧ t.th.pipe.park = some .issue ∧ t.mem = s.mem)

/-! ### Work, gangs and moves -/

/-- WFW (05 R83): with no thread waiting before it, the newest entry of the core's list with status 1, else the oldest task of the quad's
dispenser with status 2; without either the thread parks at the WFW.
WFLD (05 R74): w[d] becomes the work identifier's field c, by the widths that WIDW holds.
WLPUSH and WLPOP (05 R87): a push appends the pair as the newest entry, or answers 1 when the list is full; a pop gives the
newest entry and 1, or answers 0 when the list is empty. -/
def Obligations.WorkLists : Prop :=
  (∀ (s : State) (d : Reg), s.Free [d, 1, 2, 3, 4] → s.Calm → s.th.gang = none →
     let takes (ws : Word × Word × Word × Word) (st : Word) (t : State) : Prop :=
       exec (.wfw d) s = .next t ∧ (d ≠ 0 → t.rd d = st) ∧ (d ≠ 1 → t.rd 1 = ws.1) ∧ (d ≠ 2 → t.rd 2 = ws.2.1) ∧
         (d ≠ 3 → t.rd 3 = ws.2.2.1) ∧ (d ≠ 4 → t.rd 4 = ws.2.2.2) ∧ (∀ e, e ∉ [d, 1, 2, 3, 4] → t.rd e = s.rd e) ∧
         (∀ k, t.mem.read k = s.mem.read k) ∧ t.th.pc = s.th.step4.pc
     let first : Prop := ∀ x ∈ s.threads, x.isWaitingWork = false
     (first → s.core.wlBad = false → s.core.wlCount ≠ 0 →
       let k := locKey s.core.cid (s.core.wlSlot (s.core.wlCount - 1))
       ∃ t, takes (s.mem.word k, s.mem.word (k + 8), 0, 0) 1 t ∧ t.core.wlCount = s.core.wlCount - 1) ∧
     (∀ x rest, first → s.core.wlCount = 0 → (s.dispenser (cidQuad s.th.cid)).tasks = x :: rest → s.waiters = [] →
       ∃ t, takes x 2 t ∧ (t.dispenser (cidQuad s.th.cid)).tasks = rest) ∧
     (s.core.wlCount = 0 → (s.dispenser (cidQuad s.th.cid)).tasks = [] →
       ∃ t, exec (.wfw d) s = .next t ∧ t.th.pipe.park = some (.work d) ∧ t.th.pc = s.th.pc ∧ (∀ e, t.rd e = s.rd e) ∧
         (∀ k, t.mem.read k = s.mem.read k))) ∧
  (∀ (s : State) (d a c : Reg), s.Free [d, a] →
     let width (n : Nat) : Nat := bits s.th.ident.widw (7 * n + 6) (7 * n)
     let lo := ((List.range c.toNat).map width).sum
     Puts (exec (.wfld d a c) s) s d (BitVec.ofNat 64 ((s.rd a).toNat / 2 ^ lo % 2 ^ width c.toNat))) ∧
  (∀ (s : State) (d a b : Reg), s.Free [d, a, b, d + 1] → s.Calm → s.Canonical → s.core.wlBad = false →
     (s.core.wlCap ≤ s.core.wlCount → Puts (exec (.wlpush d a b) s) s d 1) ∧
     (s.core.wlCount < s.core.wlCap →
       let k := locKey s.core.cid (s.core.wlSlot s.core.wlCount)
       ∃ t, exec (.wlpush d a b) s = .next t ∧ (d ≠ 0 → t.rd d = 0) ∧ (∀ e, e ≠ d → t.rd e = s.rd e) ∧
         t.core.wlCount = s.core.wlCount + 1 ∧ t.th.pc = s.th.step4.pc ∧
         ∀ j, t.mem.read j = if k ≤ j ∧ j < k + 8 then byteOf (s.rd a) (j - k)
           else if k + 8 ≤ j ∧ j < k + 16 then byteOf (s.rd b) (j - (k + 8)) else s.mem.read j) ∧
     (d &&& 1 = 0 → d ≠ 0 → a ≠ d → a ≠ d + 1 → s.core.wlCount = 0 → Puts (exec (.wlpop d a) s) s a 0) ∧
     (d &&& 1 = 0 → d ≠ 0 → a ≠ d → a ≠ d + 1 → s.core.wlCount ≠ 0 →
       let k := locKey s.core.cid (s.core.wlSlot (s.core.wlCount - 1))
       ∃ t, exec (.wlpop d a) s = .next t ∧ t.rd d = s.mem.word k ∧ t.rd (d + 1) = s.mem.word (k + 8) ∧ (a ≠ 0 → t.rd a = 1) ∧
         (∀ e, e ∉ [d, d + 1, a] → t.rd e = s.rd e) ∧ t.core.wlCount = s.core.wlCount - 1 ∧ t.th.pc = s.th.step4.pc ∧
         ∀ j, t.mem.read j = s.mem.read j))

/-- LAUNCH (05 R72, R82; 21 R349): a record that passes the checks is queued as a launch of the thread's partition with status 0;
nothing in memory changes. -/
def Obligations.ThreadLaunch : Prop :=
  ∀ (s : State) (d a la : Reg) (pl : Place), s.Free [d, a] → s.Calm → s.part.num = s.th.part →
    s.Reaches .unitRead 128 (s.rd a) pl →
    recordStatus s.part (unitWords s s.part pl 16) = 0 →
    ∃ l : Launch, l.part = s.th.part ∧ l.record = unitWords s s.part pl 16 ∧ l.arrival = s.cycle ∧ l.placed = none ∧
      PutsLate (exec (.launch d a la) s) { s with launches := s.launches ++ [l], nextId := s.nextId + 1 } d la 0

/-- YIELD (05 R89): the thread is not eligible for the 64 cycles that follow, and nothing else changes. MIG (04 R68): 0 on the
thread's own core, 2 when it may not move, 1 where the target runs on no core, and otherwise the thread departs with its
registers, its home slot reserved. -/
def Obligations.YieldAndMigrate : Prop :=
  (∀ s : State, exec .yield s = .next { s with th := { s.th.passed with pipe := { s.th.passed.pipe with yieldUntil := s.cycle + 65 } } }) ∧
  (∀ (s : State) (d a : Reg) (y : BitVec 7) (x : BitVec 6), s.Free [d, a] → s.Calm → s.th.gang = none →
    addrMbz (s.rd a) = true → addrSpace (s.rd a) = 0 ∨ addrSpace (s.rd a) = 3 →
    resolveLocal s.part s.th.agent (s.rd a) = some (y, x) →
    ((y, x) = (s.th.ident.ly, s.th.ident.lx) → Puts (exec (.mig d a) s) s d 0) ∧
    ((y, x) ≠ (s.th.ident.ly, s.th.ident.lx) → s.mayMove = false → Puts (exec (.mig d a) s) s d 2) ∧
    ((y, x) ≠ (s.th.ident.ly, s.th.ident.lx) → s.mayMove = true → s.part.running y x = none → Puts (exec (.mig d a) s) s d 1) ∧
    (∀ c, (y, x) ≠ (s.th.ident.ly, s.th.ident.lx) → s.mayMove = true → s.part.running y x = some c → s.th.pipe.pend = [] →
      s.core.vq = [] →
      ∃ t m, exec (.mig d a) s = .next t ∧ t.moves = s.moves ++ [m] ∧ m.target = c ∧ m.thread.w = s.th.w ∧
        m.statusReg = some d ∧ m.access = none ∧ t.th.active = s.th.active ∧ t.th.pipe.park = some .moving ∧ t.mem = s.mem))

/-- GANG and UNGANG (04 R60; 21 R339, 22 R380), GANG of 2, 4 or 8: status 2 when the thread's column does not fit the size, 1 when a slot of a
follower is taken, and, by the model's choice (log entry 90), when a member's logical core runs on no physical core; otherwise the followers, one in the same slot of each of the next cores, start at the next instruction with
the leader's registers and their index, and w[d] is 0. A member that executes UNGANG leaves the gang. -/
def Obligations.Gangs : Prop :=
  ∀ (s : State) (d c : Reg), 1 ≤ c.toNat → c.toNat ≤ 3 → s.Free [d] → s.Calm → s.th.pipe.pend = [] → s.core.vq = [] → s.th.gang = none →
    s.th.bound = false →
    s.th.st tSPEC = false → s.th.st tBOOST = false → s.th.holding = none →
    let n := 2 ^ c.toNat
    let lx := s.th.ident.lx.toNat
    (lx % n ≠ 0 ∨ s.part.W < lx + n → Puts (exec (.gang d c) s) s d 2) ∧
    (lx % n = 0 → lx + n ≤ s.part.W → gangCores s.part s.th.ident.ly s.th.ident.lx n = none → Puts (exec (.gang d c) s) s d 1) ∧
    (∀ cs, lx % n = 0 → lx + n ≤ s.part.W → gangCores s.part s.th.ident.ly s.th.ident.lx n = some cs →
      (∃ x ∈ cs.drop 1, s.slotTaken (mkTid x s.th.slot) = true) → Puts (exec (.gang d c) s) s d 1) ∧
    (∀ cs, lx % n = 0 → lx + n ≤ s.part.W → gangCores s.part s.th.ident.ly s.th.ident.lx n = some cs → cs.Nodup →
      cs.head? = some s.th.cid → (∀ x ∈ cs.drop 1, s.slotTaken (mkTid x s.th.slot) = false) →
      ∃ t, exec (.gang d c) s = .next t ∧ (d ≠ 0 → t.rd d = 0) ∧ (∀ e, e ≠ d → t.rd e = s.rd e) ∧ t.th.pc = s.th.step4.pc ∧
        t.th.gang = some (s.th.tid, BitVec.ofNat 3 c.toNat) ∧ t.th.ident.gidx = 0 ∧ (∀ k, t.mem.read k = s.mem.read k) ∧
        ∀ (k : Nat) (x : Cid), 0 < k → cs[k]? = some x →
          let f := t.thread (mkTid x s.th.slot)
          f.active = true ∧ f.w = t.th.w ∧ f.pc = t.th.pc ∧ f.ident.gidx = BitVec.ofNat 3 k ∧
            f.gang = some (s.th.tid, BitVec.ofNat 3 c.toNat)) ∧
    (∀ (u : State) (l : Tid) (k : BitVec 3), u.th.gang = some (l, k) →
      exec .ungang u = .next { u with th := { u.th.passed with gang := none, ident := { u.th.passed.ident with gidx := 0 } } })

/-! ### Messages, axes, tasks and frames -/

/-- SENDV (15 R239, R246; 21 R355): the message of 1 to 16 words from the thread's own memory is on its way to the handle's thread at VT w[b];
MSENT and SEQ count it, and no register changes; a thread that logs pushes one record, and no other byte of memory changes. A VT below LVT is
illegal for a bound thread.
RECVV (15 R240; 22 R366): the message first in (VT, sender, SEQ) order is delivered: its header says DELIV, LVT rises to its VT, and w[d] is its
address, the window of la instructions still standing; a bound thread that logs pushes a checkpoint before when the VT is above LVT. Without a
message the result stays pending with the registers of its issue. -/
def Obligations.Messages : Prop :=
  (∀ (s : State) (d a b c : Reg) (y : BitVec 7) (x : BitVec 6) (slot : BitVec 3) (off : Nat), s.Free [d, a, b, c] → s.Calm → s.Canonical →
     let n := if (s.rd d).toNat % 16 = 0 then 16 else (s.rd d).toNat % 16
     let r := s.ownKey s.th s.th.rw.top
     (s.th.bound = true → (s.rd b).toNat < s.th.ax.lvt.toNat →
       exec (.sendv d a b c) s = .next (s.takeTrap ⟨0x01, 0, (encode (.sendv d a b c)).setWidth 64⟩)) ∧
     (s.th.bound = false ∨ s.th.ax.lvt.toNat ≤ (s.rd b).toNat → (s.th.logs = true → s.th.rw.free ≠ 0) →
       resolveHandle s.part s.th.agent (s.rd a) = .ok (y, x, slot) → payloadOff s.part s.th (s.rd c) n = .ok off →
       s.poisonIn (s.ownPlace s.th off).key (8 * n) = none → s.bufferFull s.th.cid = false →
       ∃ t msg, exec (.sendv d a b c) s = .next t ∧ t.messages = s.messages ++ [msg] ∧ msg.vt = s.rd b ∧ msg.part = s.th.part ∧
         msg.src = s.th.cid ∧ msg.dest = s.destTid y x slot ∧ msg.handle = s.th.handle ∧ msg.destHandle = mkHandle y x slot ∧
         msg.payload = unitWords s s.part (s.ownPlace s.th off) n ∧ msg.anti = false ∧ msg.st = .flight ∧
         msg.seq = s.th.ring.seq ∧ t.th.ring.seq = s.th.ring.seq + 1 ∧ t.core.msent = s.core.msent + 1 ∧
         t.th.rw.count = s.th.rw.count + (if s.th.logs then 1 else 0) ∧ (∀ e, t.rd e = s.rd e) ∧
         (∀ k, (s.th.logs = true → k < r ∨ r + 32 ≤ k) → t.mem.read k = s.mem.read k) ∧ t.th.pc = s.th.step4.pc)) ∧
  (∀ (s : State) (d la : Reg), d ≠ 0 → s.Free [d] → s.Calm → s.Canonical →
     (∀ m, s.candidate s.th = some m → (s.th.needsCheckpoint m.2.1 = true → 5 ≤ s.th.rw.free) →
       let h := s.ownKey s.th (m.1 + 8)
       ∃ t, exec (.recvv d la) s = .next t ∧ t.rd d = ownAddr m.1 ∧ (∀ e, e ≠ d → t.rd e = s.rd e) ∧
         (la ≠ 0 → ∃ p ∈ t.th.pipe.pend, p.reg = wReg d ∧ p.left = la.toNat ∧ p.st = .arrived) ∧
         t.th.ax.lvt = (if s.th.ax.lvt.toNat < m.2.1.toNat then m.2.1 else s.th.ax.lvt) ∧ t.th.pc = s.th.step4.pc ∧
         t.th.ax.pushno = s.th.ax.pushno + (if s.th.needsCheckpoint m.2.1 then 5 else 0) ∧ bits (t.mem.word h) 10 8 = 1 ∧
         (s.th.needsCheckpoint m.2.1 = false → ∀ j, j < h ∨ h + 8 ≤ j → t.mem.read j = s.mem.read j)) ∧
     (s.candidate s.th = none → ∃ t, exec (.recvv d la) s = .next t ∧ (∀ e, t.rd e = s.rd e) ∧
       (∀ k, t.mem.read k = s.mem.read k) ∧ t.th.pc = s.th.step4.pc ∧
       ∃ p ∈ t.th.pipe.pend, p.reg = wReg d ∧ p.left = la.toNat ∧ p.st = .message s.th.w))

/-- R241 (15_time_axes.md), whole: MDONE makes the message DONE when its slot belongs to the thread's ring and holds DELIV; in every
other case it changes nothing, and it never traps for it; a DONE message leaves the ring only once the horizon passes its VT. -/
def Obligations.MessageDone : Prop :=
  (∀ (s : State) (a : Reg), s.Free [a] →
    let own := addrMbz (s.rd a) = true ∧ (addrSpace (s.rd a) = 0 ∨ addrSpace (s.rd a) = 3) ∧
      resolveLocal s.part s.th.agent (s.rd a) = some (s.th.ident.ly, s.th.ident.lx)
    let off := (s.rd a).toNat % 2 ^ 21
    (∀ m, own → (s.slots s.th).find? (fun m => m.1 = off) = some m → hdrState m.2.2 = 1 →
      ∃ t u : State, exec (.mdone a) s = .next t ∧ u = (s.setSlot s.th off 2) ∧ t.mem = u.mem ∧ (∀ e, t.rd e = s.rd e) ∧
        t.th.pc = s.th.step4.pc) ∧
    ((¬own ∨ ∀ m, (s.slots s.th).find? (fun m => m.1 = off) = some m → hdrState m.2.2 ≠ 1) →
      exec (.mdone a) s = .next { s with th := s.th.passed })) ∧
  (∀ (s : State) (t : Thread) (off : Nat), s.Canonical →
    bits ((s.setSlot t off 2).mem.word (s.ownKey t (off + 8))) 10 8 = 2) ∧
  (∀ (s : State) (t : Thread) (w0 w1 : Word), hdrState w1 = 2 →
    (s.slotFreed t w0 w1 = true ↔ t.bound = false ∨ w0.toNat < (s.hznOf t).toNat))

/-- AXBIND (15 R232; 17 R272; 20 R321): mode 0 binds an unbound thread to the reduced axis w[a], with SPEC set and AXIS naming it; mode 1
binds it to a frame axis allotted to its partition, the first thread giving the window; mode 2 leaves an unbound thread as it was; mode 3 and up, a bound thread's mode 0 and an axis above 63 are illegal. -/
def Obligations.AxisBinding : Prop :=
  ∀ (s : State) (a b c : Reg), s.Free [a, b, c] → s.th.gang = none →
    (s.rd c = 0 → s.th.bound = false → (s.rd a).toNat ≤ 63 →
      ∃ t, exec (.axbind a b c) s = .next t ∧ t.th.st tSPEC = true ∧ t.th.bound = true ∧ t.th.axisMode = 0 ∧
        t.th.axisNum = (s.rd a).toNat ∧ t.th.ax.pushno = 0 ∧ (∀ e, t.rd e = s.rd e) ∧ (∀ k, t.mem.read k = s.mem.read k) ∧
        t = { s with th := { s.th.passed with tstat := t.th.tstat, ax := { s.th.ax with axis := t.th.ax.axis, pushno := 0 } } }) ∧
    (s.rd c = 1 → s.th.bound = false → 64 ≤ (s.rd a).toNat → (s.rd a).toNat ≤ 16383 →
      (s.axisOf ((s.rd a).setWidth 14)).owner = some s.th.part → s.boundTo s.th.part (s.rd a).toNat = [] →
      1 ≤ (s.rd b).toNat % 512 → (s.rd b).toNat % 512 ≤ 256 → (s.axisOf ((s.rd a).setWidth 14)).draining = false →
      ∃ t, exec (.axbind a b c) s = .next t ∧ t.th.st tSPEC = true ∧ t.th.bound = true ∧ t.th.axisMode = 1 ∧
        t.th.axisNum = (s.rd a).toNat ∧ (t.axisOf ((s.rd a).setWidth 14)).window.toNat = (s.rd b).toNat % 512 ∧
        (∀ e, t.rd e = s.rd e) ∧ (∀ k, t.mem.read k = s.mem.read k) ∧ t.th.pc = s.th.step4.pc) ∧
    (s.rd c = 2 → s.th.bound = false → s.th.st tBOOST = false → exec (.axbind a b c) s = .next { s with th := s.th.passed }) ∧
    (3 ≤ (s.rd c).toNat ∨ s.rd c = 0 ∧ (s.th.bound = true ∨ 63 < (s.rd a).toNat) →
      exec (.axbind a b c) s = .next (s.takeTrap ⟨0x01, 0, (encode (.axbind a b c)).setWidth 64⟩))

/-- TBEGIN and TEND (16 R254, R255): a task opens at VT w[a] with BOOST set, LVT and TVT its VT, and a checkpoint of five records
on the rewind stack, which frees the records below a checkpoint that the horizon has reached (15 R248); it ends with BOOST clear and LVT above TVT. TEND outside a task is illegal.
ABOP (16 R263, R265): outside a boosted task it answers 2, and for a refused kind 1; an operation of kind 2 on an SBM counter that no
live operation conflicts with is recorded, with an entry of its own unless the task has made the same one, adds its argument to the counter,
pushes its inverse (15 R245), and answers 0. -/
def Obligations.BoostedTasks : Prop :=
  ((∀ (s : State) (a : Reg), s.Free [a] → s.Calm → s.th.taskIllegal (s.rd a) = false → s.th.ax.waittag = none → 5 ≤ s.th.rw.free →
     ∃ t, exec (.tbegin a) s = .next t ∧ t.th.st tBOOST = true ∧ t.th.ax.lvt = s.rd a ∧ t.th.ax.tvt = s.rd a ∧
       t.th.rw.count ≤ s.th.rw.count + 5 ∧ (s.hznOf s.th = 0 → t.th.rw.count = s.th.rw.count + 5) ∧ t.th.ax.pushno = s.th.ax.pushno + 5 ∧ (∀ e, t.rd e = s.rd e) ∧ t.th.pc = s.th.step4.pc) ∧
   (∀ s : State, s.th.gang = none → s.th.st tBOOST = true →
     ∃ t, exec .tend s = .next t ∧ t.th.st tBOOST = false ∧ (∀ e, t.rd e = s.rd e) ∧
       t.th.ax.lvt = (if s.th.ax.lvt.toNat < (s.th.ax.tvt + 1).toNat then s.th.ax.tvt + 1 else s.th.ax.lvt) ∧ t.mem = s.mem ∧
       t = { s with th := { s.th.passed with tstat := t.th.tstat, ax := { s.th.ax with lvt := t.th.ax.lvt } } }) ∧
   (∀ s : State, s.th.st tBOOST = false → exec .tend s = .next (s.takeTrap ⟨0x01, 0, (encode .tend).setWidth 64⟩))) ∧
  (∀ (s : State) (d a b c : Reg), s.Free [d, a, b, c] → s.Calm → s.th.gang = none →
     (s.th.st tBOOST = false → Puts (exec (.abop d a b c) s) s d 2) ∧
     (s.th.st tBOOST = true → s.th.st tUNW = false → s.th.st tSP = false →
       63 < (s.rd c).toNat ∨ (s.rd c).toNat ≤ 1 ∨ (3 ≤ (s.rd c).toNat ∧ (s.rd c).toNat ≤ 7) → Puts (exec (.abop d a b c) s) s d 1) ∧
     (∀ ps pl, s.th.st tBOOST = true → s.th.st tUNW = false → s.th.st tSP = false → s.rd c = 2 → s.Canonical →
       placesFrom s .unitRead 8 2 (s.rd b) = .ok ps → (∀ p ∈ ps, s.poisonIn p.2.key 8 = none) →
       addrSpace (s.rd a) = 1 → s.Reaches .store 8 (s.rd a) pl → s.heldByOther (some s.th.tid) pl.key 8 = none →
       s.rivals (s.rd a) s.th.opVt = [] → s.waysUsed (s.rd a) < 8 → s.th.rw.free ≠ 0 →
       let arg := recWord (pieceWords s 8 (ps.map (·.2))) 0
       let own (e : DirEntry) : Prop := e.part = s.th.part ∧ e.owner = s.th.handle ∧ e.tvt = s.th.ax.tvt ∧ e.handle = s.rd a ∧ e.kind = 2 ∧
         e.arg0 = arg
       ∃ t, exec (.abop d a b c) s = .next t ∧ (d ≠ 0 → t.rd d = 0) ∧ (∀ e, e ≠ d → t.rd e = s.rd e) ∧
         t.th.rw.count = s.th.rw.count + 1 ∧ t.th.pc = s.th.step4.pc ∧
         ((∃ e ∈ s.dir, own e) → t.dir = s.dir) ∧
         ((∀ e ∈ s.dir, ¬own e) → s.th.bound = false ∨ s.hznOf s.th ≤ s.th.ax.tvt → ∃ e, t.dir = s.dir ++ [e] ∧ own e ∧
           e.die = homeDie (s.rd a) ∧ e.pushno = s.th.ax.pushno + 1) ∧ t.th.ax.dirmask.getLsbD (homeDie (s.rd a)).toNat = true ∧
         (let r := t.recordAt t.th s.th.rw.top
          r.1 = s.th.ax.lvt ∧ recordKind r.2.1 = 1 ∧ recordOpk r.2.1 = 2 ∧ recordAddr r.2.1 = 0 ∧ r.2.2.1 = arg ∧ r.2.2.2 = s.rd a) ∧
         ∀ j, j < s.ownKey s.th s.th.rw.top ∨ s.ownKey s.th s.th.rw.top + 32 ≤ j → t.mem.read j =
           if pl.key ≤ j ∧ j < pl.key + 8 then byteOf (s.mem.word pl.key + arg) (j - pl.key) else s.mem.read j))

/-- FOPEN and FCONF (17 R277, R278): a frame opens on the thread's frame axis at VT w[a] above LVT, with its id in w[d]; a named frame is
confirmed with status 0, and an id that names no frame of the partition answers 1. FUNW: a named frame and everything above it
leave, with status 0.
TOKEMIT (17 R275): a token at a new position inside the window joins the axis's retirement buffer, LVT rises to its position, and
w[d] is 0; a position below the horizon or that the buffer retains answers 1; without room, or behind a thread that waits for room, the
thread parks. -/
def Obligations.FramesAndTokens : Prop :=
  (∀ (s : State) (d a : Reg), s.Free [d, a] → s.Calm → s.th.gang = none →
     (s.th.bound = true → s.th.axisMode = 1 → (s.rd a).toNat < 2 ^ 32 → s.th.ax.rwd = false → 5 ≤ s.th.rw.free →
       s.th.ax.lvt.toNat < (s.rd a).toNat → (s.axisOf s.th.frameAxis).retains (s.rd a) = false → s.th.rollTarget = none →
       (s.axisOf s.th.frameAxis).frames.length < 8 →
       ∃ t, exec (.fopen d a) s = .next t ∧ (d ≠ 0 → t.rd d = BitVec.ofNat 64 (s.th.axisNum * 2 ^ 32 + (s.rd a).toNat)) ∧
         (∀ e, e ≠ d → t.rd e = s.rd e) ∧ t.th.ax.lvt = s.rd a ∧ t.th.pc = s.th.step4.pc ∧
         (t.axisOf s.th.frameAxis).frames = (s.axisOf s.th.frameAxis).frames ++ [(s.rd a, true)]) ∧
     (s.frameNamed (s.rd a) = none → Puts (exec (.fconf d a) s) s d 1 ∧ Puts (exec (.funw d a) s) s d 1) ∧
     (∀ x p, s.frameNamed (s.rd a) = some (x, p) →
       (∃ t, exec (.fconf d a) s = .next t ∧ (d ≠ 0 → t.rd d = 0) ∧ (∀ e, e ≠ d → t.rd e = s.rd e) ∧ t.th.pc = s.th.step4.pc ∧
         ∀ q, (q, true) ∈ (t.axisOf x.num).frames ↔ (q, true) ∈ x.frames ∧ q ≠ p) ∧
       (∃ t, exec (.funw d a) s = .next t ∧ (d ≠ 0 → t.rd d = 0) ∧ (∀ e, e ≠ d → t.rd e = s.rd e) ∧ t.th.pc = s.th.step4.pc ∧
         ∀ f, f ∈ (t.axisOf x.num).frames ↔ f ∈ x.frames ∧ f.1.toNat < p.toNat))) ∧
  (∀ (s : State) (d a b c : Reg), s.Free [d, a, b, c] → s.Calm → s.th.gang = none → s.th.bound = true → s.th.axisMode = 1 →
     (s.rd b).toNat < 2 ^ 32 → s.th.rollTarget = none →
     let x := s.axisOf s.th.frameAxis
     ((s.rd b).toNat < x.hzn.toNat ∨ x.retains (s.rd b) = true →
       Puts (exec (.tokemit d a b c) s) { s with th := { s.th with pipe := { s.th.pipe with turn := none } } } d 1) ∧
     (x.hzn.toNat ≤ (s.rd b).toNat → x.retains (s.rd b) = false →
       x.window.toNat ≤ x.tokens.length ∨ s.aheadForTokens s.th.axisNum = true → ∃ n k, exec (.tokemit d a b c) s =
         .next { s with th := { s.th with pipe := { s.th.pipe with park := some (.tokens s.th.axisNum), parkedAt := n, parkSeq := k } } }) ∧
     (x.hzn.toNat ≤ (s.rd b).toNat → x.retains (s.rd b) = false → x.tokens.length < x.window.toNat →
       s.aheadForTokens s.th.axisNum = false →
       ∃ t, exec (.tokemit d a b c) s = .next t ∧ (d ≠ 0 → t.rd d = 0) ∧ (∀ e, e ≠ d → t.rd e = s.rd e) ∧
         (t.axisOf s.th.frameAxis).tokens = x.tokens ++ [⟨s.rd b, (s.rd a).setWidth 32, (s.rd c).setWidth 16⟩] ∧
         t.th.ax.lvt = (if s.th.ax.lvt.toNat < (s.rd b).toNat then s.rd b else s.th.ax.lvt) ∧ t.th.pc = s.th.step4.pc))

/-- A rollback event (15 R243): taken at an issue with SP clear and nothing outstanding, it puts the target in w1 and the pc in
TEPC, clears RPTST.ACTIVE and continues at RBVEC, the privilege and every other register unchanged.
ROLL (15 R247): with an empty rewind stack it only passes, no rollback being in progress any more; at a checkpoint that qualifies
w1 to w15, the pc and LVT become the checkpoint's, and the checkpoint stays on the stack; in a handler or a gang it is illegal. -/
def Obligations.RollBack : Prop :=
  (∀ (s : State) (v : Word), s.th.active = true → s.core.cid = s.th.cid → s.part.num = s.th.part → s.Settled →
     s.th.pipe.held = [] → s.th.rw.event = some v → s.th.rw.vectored = none → s.th.rw.target = none → s.th.st tSP = false →
     v ≤ s.th.ax.lvt →
     ∃ t, exec (.rollbackEventVector s.th.tid) s = .next t ∧ t.rd 1 = v ∧ (∀ e, e ≠ 1 → t.rd e = s.rd e) ∧
       t.th.trap.tepc = s.th.pc ∧ t.th.pc = s.th.rw.rbvec ∧ t.th.tstat = s.th.tstat ∧ t.th.trap.rptst.getLsbD 63 = false ∧
       t.th.rw.event = none ∧ t.th.rw.vectored = some v ∧ (∀ k, t.mem.read k = s.mem.read k) ∧ t.others = s.others) ∧
  (∀ (s : State) (a : Reg), s.Free [a] → s.Calm → s.th.pipe.pend = [] →
     (s.th.st tSP = true ∨ s.th.gang ≠ none → exec (.roll a) s = .next (s.takeTrap ⟨0x01, 0, (encode (.roll a)).setWidth 64⟩)) ∧
     (s.th.st tSP = false → s.th.gang = none → s.th.rw.count = 0 → s.th.bound = false →
       ∃ t, exec (.roll a) s = .next t ∧ t.th.rw.event = none ∧ t.th.rw.vectored = none ∧ t.th.rw.target = none ∧
         t.th.st tUNW = false ∧ (∀ e, t.rd e = s.rd e) ∧ (∀ k, t.mem.read k = s.mem.read k) ∧ t.th.pc = s.th.step4.pc) ∧
     (∀ h, s.th.st tSP = false → s.th.gang = none → s.th.bound = false → s.th.ring.used = 0 → s.messages = [] →
       s.core.mx.run = none → s.th.rw.count ≠ 0 → s.th.rw.event = none → s.th.rw.target = none → s.th.topCheckpoint = some h →
       let r := s.recordAt s.th (s.th.rw.down s.th.rw.top 1)
       r.1.toNat < (s.rd a).toNat ∨ s.rd a = BitVec.allOnes 64 →
       ∃ t, exec (.roll a) s = .next t ∧ (∀ e, e ≠ 0 → t.rd e = (s.savedRegs s.th h)[e.toNat]'e.isLt) ∧
         t.th.pc = BitVec.ofNat 64 ((recordAddr r.2.1).toNat / 4 * 4) ∧ t.th.ax.lvt = r.1 ∧ t.th.rw.count = s.th.rw.count ∧
         t.core.mx.acc = Vector.replicate 4 0 ∧ (∀ k, t.mem.read k = s.mem.read k)))

/-- DEFER (15 R246, R250, R251; 17 R279): a record of class 0 is read at the issue, or where the DEFER parked since then is the copy that it took,
and filed in the core's commit queue with its id and VT max(w[b], LVT); registers stay, a thread that logs pushes one record, and no other byte of
memory changes. -/
def Obligations.DeferEffects : Prop :=
  ∀ (s : State) (d a b : Reg) (ws : List Word), s.Free [d, a, b] → s.Calm → s.Canonical → (s.th.logs = true → s.th.rw.free ≠ 0) →
    (s.th.pipe.record = some ws ∨ s.th.pipe.record = none ∧ ∃ pl, s.Reaches .unitRead 64 (s.rd a) pl ∧ ws = unitWords s s.part pl 8 ∧
      effectRefused (recWord ws 0) = false) →
    bits (recWord ws 0) 1 0 = 0 → s.core.queued < 64 →
    let k := s.ownKey s.th s.th.rw.top
    ∃ t e, exec (.defer d a b) s = .next t ∧ t.core.commits = s.core.commits ++ [e] ∧ e.id = s.rd d ∧
      e.vt = (if (s.rd b).toNat < s.th.ax.lvt.toNat then s.th.ax.lvt else s.rd b) ∧ e.owner = s.th.tid ∧
      e.kind.toNat = bits (recWord ws 0) 7 4 ∧ e.value = recWord ws 2 ∧ (∀ r, t.rd r = s.rd r) ∧ t.th.pipe.record = none ∧
      t.th.rw.count = s.th.rw.count + (if s.th.logs then 1 else 0) ∧
      (∀ j, (s.th.logs = true → j < k ∨ k + 32 ≤ j) → t.mem.read j = s.mem.read j) ∧ t.th.pc = s.th.step4.pc

/-! ### The vector engine -/

/-- A queued vector instruction (09 R156, R157; 04 R65, R66): with room in the engine's queue, and budget for its charge or no vector
instruction issued since the last refill, it joins the queue with the scalars that it reads, is charged q · f units, never below zero, and the
thread goes on; no register and no byte of memory changes before the engine performs it. One that may not issue is not charged, and its slot
waits for the next refill. The model's choices, log entry 44: VDIRTY is set as it joins the queue (mask logic and VCMP set it unless the
destination is m0), and the quarters of a VCVT are counted over the lanes of its destination type. -/
def Obligations.VectorQueueing : Prop :=
  ∀ (s : State) (d a b o f : Reg) (m r : BitVec 2) (e : Reg) (c : BitVec 3) (st : Reg), s.FreeVec [d, a, b, b + 1, d + 1] →
    s.Free [a, b] → s.core.vq.length < 2 →
    let queues (i : Instr) (units : Nat) (sa sb : Reg) (dirty : Bool) : Prop :=
      (units ≤ s.th.pipe.ebud.toNat ∨ s.th.pipe.vecIssued = false →
        exec i s = .next { s with
          core := { s.core with vq := s.core.vq ++ [⟨s.th.tid, i, s.rd sa, s.rd sb⟩] }
          th := { s.th.passed with
            tstat := if dirty then setBit s.th.tstat 3 true else s.th.tstat
            pipe := { s.th.passed.pipe with ebud := BitVec.ofNat 64 (s.th.pipe.ebud.toNat - units), vecIssued := true } } }) ∧
      (s.th.pipe.ebud.toNat < units → s.th.pipe.vecIssued = true →
        ∃ t, exec i s = .next t ∧ t.th.pipe.starved = true ∧ t.th.pipe.park = some .budget ∧ t.th.pipe.ebud = s.th.pipe.ebud ∧
          t.th.pc = s.th.pc ∧ t.core = s.core ∧ t.mem = s.mem ∧ (∀ k, t.rd k = s.rd k) ∧ ∀ k, t.rdv k = s.rdv k)
    let q := quarters (s.rdm m) (laneCount e)
    let q16 := quarters (s.rdm m) 16
    let fAdd := if e.toNat < 5 then 1 else if e.toNat = 7 then 3 else if e.toNat = 8 then 8 else 2
    let fMul := if e.toNat < 5 then 1 else if e.toNat = 8 then 8 else 4
    (queues (.vadd d a b m e r) (q * fAdd) 0 0 true ∧ queues (.vsub d a b m e r) (q * fAdd) 0 0 true ∧
      queues (.vmul d a b m e r) (q * fMul) 0 0 true ∧ queues (.vfma d a b m e r) (q * fMul) 0 0 true ∧
      queues (.vmin d a b m e) (q * fAdd) 0 0 true ∧ queues (.vmax d a b m e) (q * fAdd) 0 0 true) ∧
    (queues (.vand d a b m e) q 0 0 true ∧ queues (.vor d a b m e) q 0 0 true ∧ queues (.vxor d a b m e) q 0 0 true ∧
      queues (.vshl d a b m e) q 0 0 true ∧ queues (.vshr d a b m e) q 0 0 true ∧ queues (.vperm d a b m e) q 0 0 true ∧
      queues (.vsel d a m e) q 0 0 true ∧ queues (.vbcast d a m e) q a 0 true ∧ queues (.viota d a m e) q a 0 true) ∧
    (queues (.vcmp d a b c m e) (q * fAdd) 0 0 (d != 0) ∧ queues (.vred d a o m e r) (q * fAdd) 0 0 true ∧
      queues (.mand d a b) 4 0 0 (d != 0) ∧ queues (.mor d a b) 4 0 0 (d != 0) ∧ queues (.mnot d a) 4 0 0 (d != 0)) ∧
    (queues (.vexp2 d a m r) (q16 * 16) 0 0 true ∧ queues (.vlog2 d a m r) (q16 * 16) 0 0 true ∧
      queues (.vrcp d a m r) (q16 * 16) 0 0 true ∧ queues (.vrsq d a m r) (q16 * 16) 0 0 true ∧
      queues (.vcvt d a st m e r) (q * (if st = 8 ∨ e = 8 then 8 else 2)) 0 0 true ∧
      queues (.vqnt d a b m f) (q16 * 2) 0 b true ∧ queues (.vdqnt d a b m f r) (q16 * 2) 0 b true) ∧
    (queues (.vbfly d a b m) (q16 * 4) 0 0 true ∧ queues (.vtwid d a b m) (q16 * 16) a b true ∧
      queues (.vbound d a b m e r) (q * 4) 0 0 true ∧ queues (.vtopk d a b m e) (q16 * (if e = 7 then 3 else 2)) 0 b true ∧
      queues (.vgumb d a m) (q16 * 16) 0 0 true ∧ queues (.vrng d a b m e) (q16 * 1) a b true ∧
      queues (.vgmask d a m e) q a 0 true)

/-- The vector engine performs the head of its core's queue (09 R156, R157; 04 R66): the instruction leaves the queue, each enabled lane of
v[d] takes its result and every other lane keeps its value; other vector registers, scalar registers, pc and memory stay.
Integer lanes (23 R384, R394) keep the low bits of sum, difference and product; minimum, maximum and right shift read n8 as unsigned and every other type
as signed. Float and log lanes (07 R113, R114, R116) take the exact result, rounded or converted once; a minimum or maximum passes over a NaN or NaR
and orders +0 above -0. Logic acts on the lane bits (23 R384), and VPERM, VBCAST, VIOTA and VSEL move lanes (23 R385, R395).
VCMP (23 R387) writes the enabled bits of m[d], a NaN failing all but ne, and zero above the lane count. VRED (23 R394) gives every enabled lane
the reduction of the enabled lanes in ascending order, and nothing under an empty mask. Mask logic (21 R353) acts on whole masks.
Conversions and functions. VCVT (23 R388; 07 R117): the lanes of both types take the exact value, rounded or
saturated once. VQNT and VDQNT (22 R382; 23 R390, R391): sixteen packed elements from or to f32
lanes under the scale code, the bits above staying. VEXP2, VLOG2, VRCP and VRSQ (07 R122; 23 R392): the exact function, rounded once, with
the special cases of R122's table.
VBFLY (07 R123): the sum and the difference with the product, rounded once. VTWID (07 R124): the cosine and the negated sine, rounded once. VBOUND (13 R215): the larger product rounded once, +∞ where one is NaN.
VTOPK (13 R218): the candidate enters before the first entry that it ranks above, and the last leaves.
VRNG and VGUMB (14 R221 to R223): the generator's output or its u, and the four fixed steps from a u. VGMASK (14 R229): -∞ in the
enabled lanes whose bit is 0. -/
def Obligations.VectorEngine : Prop :=
  (∀ (s : State) (d a b : Reg) (m r : BitVec 2) (e : Reg) (x y : Word), s.core.cid = s.th.cid → e.toNat < 12 →
     let w := laneWidth e
     let n := laneCount e
     let k := elemOf e
     let int : Prop := e.toNat < 5
     let num (u : Nat) : Int := if e = 1 then u else (BitVec.ofNat w u).toInt
     let cut (u : Int) : Nat := (BitVec.ofInt w u).toNat
     let nans (u v z : Nat) : Nat := if k.value u = .nan then (if k.value v = .nan then k.nan else v) else if k.value v = .nan then u else z
     let add (u v : Nat) : Nat := if int then cut (u + v) else k.round r (.add r (k.value u) (k.value v))
     let top (u v : Nat) : Nat :=
       if int then (if num u < num v then v else u) else nans u v (if (k.value v).gtZ (k.value u) then v else u) % 2 ^ k.bits
     let low (u v : Nat) : Nat :=
       if int then (if num v < num u then v else u) else nans u v (if (k.value u).gtZ (k.value v) then v else u) % 2 ^ k.bits
     let at3 (i : Instr) (f : Nat → Nat → Nat → Nat) : Prop := s.Lanes ⟨i, x, y⟩ d m w n fun j => f (lane w (s.rdv a) j) (lane w (s.rdv b) j) (lane w (s.rdv d) j)
     let at1 (i : Instr) (f : Nat → Nat) : Prop := s.Lanes ⟨i, x, y⟩ d m w n f
     let masks (i : Instr) (v : Word) : Prop := s.Performs ⟨i, x, y⟩ fun t =>
       (mreg d ≠ 0 → t.rdm (mreg d) = v) ∧ (∀ j, j ≠ mreg d → t.rdm j = s.rdm j) ∧ ∀ j, t.rdv j = s.rdv j
     (at3 (.vadd d a b m e r) (fun u v _ => add u v) ∧
       at3 (.vsub d a b m e r) (fun u v _ => if int then cut (u - v) else k.round r (.add r (k.value u) (k.value v).neg)) ∧
       at3 (.vmul d a b m e r) (fun u v _ => if int then cut (u * v) else k.round r ((k.value u).mul (k.value v))) ∧
       at3 (.vfma d a b m e r) (fun u v z =>
         if int then cut (u * v + z) else k.round r (.add r ((k.value u).mul (k.value v)) (k.value z))) ∧
       at3 (.vmin d a b m e) (fun u v _ => low u v) ∧ at3 (.vmax d a b m e) (fun u v _ => top u v)) ∧
     (at3 (.vand d a b m e) (fun u v _ => (u &&& v) % 2 ^ k.bits) ∧ at3 (.vor d a b m e) (fun u v _ => (u ||| v) % 2 ^ k.bits) ∧
       at3 (.vxor d a b m e) (fun u v _ => (u ^^^ v) % 2 ^ k.bits) ∧
       (int → at3 (.vshl d a b m e) (fun u v _ => u * 2 ^ (v % w) % 2 ^ w) ∧
         at3 (.vshr d a b m e) (fun u v _ => cut (num u / 2 ^ (v % w))))) ∧
     (at1 (.vperm d a b m e) (fun j => lane w (s.rdv a) (lane w (s.rdv b) j % n) % 2 ^ k.bits) ∧
       at1 (.vsel d a m e) (fun j => lane w (s.rdv a) j % 2 ^ k.bits) ∧ at1 (.vbcast d a m e) (fun _ => x.toNat % 2 ^ k.bits) ∧
       (int → at1 (.viota d a m e) (fun j => (x.toNat + j) % 2 ^ w))) ∧
     (∀ (c : BitVec 3) (l : BitVec 2), c.toNat < 6 → l ≠ 0 → s.Performs ⟨.vcmp (l.setWidth 4) a b c m e, x, y⟩ fun t =>
       let holds (u v : FVal) : Bool :=
         if u = .nan ∨ v = .nan then c = 1
         else [!u.lt v && !v.lt u, u.lt v || v.lt u, u.lt v, !v.lt u, v.lt u, !u.lt v].getD c.toNat false
       (∀ j, j < 64 → (t.rdm l).getLsbD j =
         if n ≤ j then false
         else if (s.rdm m).getLsbD j = true then
           if int then holds (intVal (num (lane w (s.rdv a) j))) (intVal (num (lane w (s.rdv b) j)))
           else holds (k.value (lane w (s.rdv a) j)) (k.value (lane w (s.rdv b) j))
         else (s.rdm l).getLsbD j) ∧
       (∀ j, j ≠ l → t.rdm j = s.rdm j) ∧ ∀ j, t.rdv j = s.rdv j) ∧
     (∀ o : Reg, o.toNat < 3 →
       match ((List.range n).filter fun j => (s.rdm m).getLsbD j).map (lane w (s.rdv a)) with
       | [] => s.Performs ⟨.vred d a o m e r, x, y⟩ fun t => (∀ j, t.rdv j = s.rdv j) ∧ ∀ j, t.rdm j = s.rdm j
       | u :: us => at1 (.vred d a o m e r) fun _ =>
           us.foldl (if o = 0 then add else if o = 1 then top else low) (if k.value u = .nan then k.nan else u % 2 ^ k.bits)) ∧
     (masks (.mand d a b) (s.rdm (mreg a) &&& s.rdm (mreg b)) ∧ masks (.mor d a b) (s.rdm (mreg a) ||| s.rdm (mreg b)) ∧
       masks (.mnot d a) (~~~ s.rdm (mreg a)))) ∧
  (∀ (s : State) (d a b : Reg) (m r : BitVec 2) (x y : Word), s.core.cid = s.th.cid →
     let val (u : Nat) : FVal := fF32.value u
     let near (v : FVal) : Nat := fF32.round 0 v
     let src (i : Reg) (j : Nat) : Nat := lane 32 (s.rdv i) j
     let halves (i : Instr) (f : Nat → Nat) : Prop := s.Lanes ⟨i, x, y⟩ d m 32 16 f
     (∀ st e : Reg, st.toNat < 12 → e.toNat < 12 →
       s.Lanes ⟨.vcvt d a st m e r, x, y⟩ d m (laneWidth e) (Nat.min (laneCount e) (laneCount st)) fun j =>
         let u := lane (laneWidth st) (s.rdv a) j
         if st ≠ e then (elemOf e).round r ((elemOf st).value u)
         else if (elemOf e).value u = .nan then (elemOf e).nan else u % 2 ^ (elemOf e).bits) ∧
     (∀ f : Reg, f.toNat < 12 →
       let k := fmtElem f
       let c := y.toNat % 256
       s.Lanes ⟨.vqnt d a b m f, x, y⟩ d m k.bits 16 (fun j => k.encode 0 c (val (src a j))) ∧
       halves (.vdqnt d a b m f r) (fun j =>
         if c = 255 then fF32.nanCode else fF32.round r ((k.value (lane k.bits (s.rdv a) j)).scaleDown (127 - c)))) ∧
     (halves (.vexp2 d a m r) (fun j => fF32.round r (val (src a j)).exp2) ∧
       halves (.vlog2 d a m r) (fun j => fF32.round r (val (src a j)).log2) ∧
       halves (.vrcp d a m r) (fun j => fF32.round r (val (src a j)).rcp) ∧
       halves (.vrsq d a m r) (fun j => fF32.round r (val (src a j)).rsqrt) ∧
       ∀ p ∈ [(0x7FC00000, 0x7FC00000, 0x7FC00000, 0x7FC00000, 0x7FC00000), (0x7F800000, 0x7F800000, 0x7F800000, 0, 0),
           (0xFF800000, 0, 0x7FC00000, 0x80000000, 0x7FC00000), (0, 0x3F800000, 0xFF800000, 0x7F800000, 0x7F800000),
           (0x80000000, 0x3F800000, 0xFF800000, 0xFF800000, 0xFF800000), (0xC0000000, 0x3E800000, 0x7FC00000, 0xBF000000, 0x7FC00000)],
         fF32.round r (val p.1).exp2 = p.2.1 ∧ fF32.round r (val p.1).log2 = p.2.2.1 ∧ fF32.round r (val p.1).rcp = p.2.2.2.1 ∧
           fF32.round r (val p.1).rsqrt = p.2.2.2.2) ∧
     (d ≠ a →
       let p (j : Nat) : FVal :=
         let re := j / 2 * 2
         let im := re + 1
         let f (i : Reg) (l : Nat) : FVal := val (src i l)
         val (near (if j % 2 = 0 then .add 0 ((f b re).mul (f a re)) ((f b im).mul (f a im)).neg
           else .add 0 ((f b re).mul (f a im)) ((f b im).mul (f a re))))
       s.Performs ⟨.vbfly d a b m, x, y⟩ fun t =>
         (∀ j, j < 16 → lane 32 (t.rdv d) j = if (s.rdm m).getLsbD j = true then near (.add 0 (val (src d j)) (p j)) else src d j) ∧
         (∀ j, j < 16 → lane 32 (t.rdv a) j = if (s.rdm m).getLsbD j = true then near (.add 0 (val (src d j)) (p j).neg) else src a j) ∧
         (∀ i, i ≠ d → i ≠ a → t.rdv i = s.rdv i) ∧ ∀ i, t.rdm i = s.rdm i) ∧
     (halves (.vtwid d a b m) (fun j =>
         let turn := cosSin ((x.toNat + j / 2) % 2 ^ (y.toNat % 64)) (y.toNat % 64)
         near (if j % 2 = 0 then turn.1 else turn.2.neg).plusZero) ∧
       (x = 0 → y = 4 → m = 0 → s.Performs ⟨.vtwid d a b m, x, y⟩ fun t =>
         (List.range 8).map (lane 32 (t.rdv d)) =
           [0x3F800000, 0, 0x3F6C835E, 0xBEC3EF15, 0x3F3504F3, 0xBF3504F3, 0x3EC3EF15, 0xBF6C835E])) ∧
     (∀ e : Reg, 5 ≤ e.toNat → e.toNat ≤ 8 →
       let f := ieeeOf e
       let w := laneWidth e
       let num (i : Reg) (j : Nat) : FVal := f.value (lane w (s.rdv i) j)
       s.Lanes ⟨.vbound d a b m e r, x, y⟩ d m w (laneCount e) fun j =>
         let p := (num a j).mul (num (b + 1) j)
         let q := (num a j).mul (num b j)
         if p = .nan ∨ q = .nan then f.infCode else f.round r (if q.gtZ p then q else p)) ∧
     (∀ e : Reg, 5 ≤ e.toNat → e.toNat ≤ 7 → s.Performs ⟨.vtopk d a b m e, x, y⟩ fun t =>
       let ls := (List.range 16).filter fun j => (s.rdm m).getLsbD j
       let key (u : Nat) : FVal := if val u = .nan then .inf true else val u
       let better (u i v j : Nat) : Prop := (key u).gtZ (key v) = true ∨ (key v).gtZ (key u) = false ∧ i < j
       let c := near ((ieeeOf e).value (lane (laneWidth e) (s.rdv a) 0))
       let j := y.toNat % 2 ^ 32
       let l (i : Nat) : Nat := ls.getD i 0
       ∃ p ≤ ls.length, (∀ i, i < p → ¬better c j (src d (l i)) (src (d + 1) (l i))) ∧
         (p < ls.length → better c j (src d (l p)) (src (d + 1) (l p))) ∧
         (∀ i, i < ls.length → (lane 32 (t.rdv d) (l i), lane 32 (t.rdv (d + 1)) (l i)) =
           if i < p then (src d (l i), src (d + 1) (l i)) else if i = p then (c, j) else (src d (l (i - 1)), src (d + 1) (l (i - 1)))) ∧
         (∀ i, i < 16 → i ∉ ls → lane 32 (t.rdv d) i = src d i ∧ lane 32 (t.rdv (d + 1)) i = src (d + 1) i) ∧
         (∀ i, i ≠ d → i ≠ d + 1 → t.rdv i = s.rdv i) ∧ ∀ i, t.rdm i = s.rdm i) ∧
     (let out (j : Nat) : Nat := (ccg x (y.extractLsb' 32 32) (y.extractLsb' 0 32) (BitVec.ofNat 32 (src d j))).toNat
      halves (.vrng d a b m 3) (fun j => out j) ∧
        halves (.vrng d a b m 7) (fun j => near (.fin false (2 * (out j / 2 ^ 9) + 1) (-24)))) ∧
     halves (.vgumb d a m) (fun j =>
       let ln2 := val 0xBF317218
       let b := val (near ((val (near (val (src a j)).log2)).mul ln2))
       near ((val (near b.log2)).mul ln2)) ∧
     (∀ e : Reg, 5 ≤ e.toNat → e.toNat ≤ 7 → s.Lanes ⟨.vgmask d a m e, x, y⟩ d m (laneWidth e) (laneCount e) fun j =>
       if x.getLsbD j then lane (laneWidth e) (s.rdv d) j else 2 ^ (laneWidth e - 1) + (ieeeOf e).infCode))

/-- MFIRST and VMOVS (21 R357, 23 R385): once the thread's queued vector instructions are done, w[d] becomes the number of the lowest set
bit of m[a] at or above w[b], or 64, and the i32 lane of v[a] that w[b] names, sign-extended; each is charged 4 units.
The vector memory group (23 R393): VLD brings the 64 bytes at the base into v[d], VLDS and VGAT sixteen halves from their addresses, each
in its own lane, at once for la = 0 and otherwise under lookahead, a VLD of a word that another thread holds waiting at its memory (03 R49); VST stores the 64 bytes of v[d] and changes no other byte. -/
def Obligations.VectorAccesses : Prop :=
  (∀ (s : State) (d a b : Reg), s.Free [d, b] → s.FreeVec [a] → s.core.vq = [] → 4 ≤ s.th.pipe.ebud.toNat →
     let s0 : State := { s with th := { s.th with pipe := { s.th.pipe with
       ebud := BitVec.ofNat 64 (s.th.pipe.ebud.toNat - 4), vecIssued := true } } }
     (∃ n ≤ 64, (n < 64 → (s.rdm (mreg a)).getLsbD n = true ∧ (s.rd b).toNat % 128 ≤ n) ∧
       (∀ i, (s.rd b).toNat % 128 ≤ i → i < n → (s.rdm (mreg a)).getLsbD i = false) ∧
       Puts (exec (.mfirst d a b) s) s0 d (BitVec.ofNat 64 n)) ∧
     Puts (exec (.vmovs d a b 3) s) s0 d
       ((BitVec.ofNat 32 (lane 32 (s.rdv a) ((s.rd b).toNat % 16))).signExtend 64)) ∧
  (∀ (s : State) (d a b la : Reg) (m : BitVec 6) (pl : Place), s.Free [a, b] → s.FreeVec [d, b] → s.Calm → s.Canonical →
     s.core.vq = [] → 4 ≤ s.th.pipe.ebud.toNat →
     let base := s.rd a + m.signExtend 64 * 64
     let loads (i : Instr) (p : Vec → Prop) : Prop := ∃ t v, exec i s = .next t ∧ p v ∧ t.th.st tVDIRTY = true ∧
       (la = 0 → t.rdv d = v) ∧ (la ≠ 0 → t.rdv d = s.rdv d ∧ ∃ q ∈ t.th.pipe.pend, q.reg = vReg d ∧ q.left = la.toNat ∧ q.st = .value v) ∧
       (∀ e, e ≠ d → t.rdv e = s.rdv e) ∧ (∀ e, t.rd e = s.rd e) ∧ (∀ k, t.mem.read k = s.mem.read k) ∧ t.th.pc = s.th.step4.pc
     (s.Reaches .read 64 base pl → s.heldByOther (some s.th.tid) pl.key 64 = none →
       loads (.vld d a m la) (fun v => ∀ i, i < 64 → byteOf v i = s.mem.read (pl.key + i))) ∧
     (s.Reaches .read 64 base pl → s.heldByOther (some s.th.tid) pl.key 64 ≠ none →
       ∃ t, exec (.vld d a m la) s = .next t ∧ (∀ e, t.rdv e = s.rdv e) ∧ (∀ e, t.rd e = s.rd e) ∧ t.mem = s.mem ∧ t.th.pc = s.th.step4.pc ∧
         (∃ q ∈ t.th.pipe.pend, q.reg = vReg d ∧ q.left = la.toNat ∧ ∃ as x o, q.st = .vector (.vld d a m la) as x 1 o) ∧
         ∃ w ∈ t.waiters, w.owner = some s.th.tid ∧ w.place = pl.key ∧ w.size = 64) ∧
     (∀ ps, placesOf s .read 4 ((List.range 16).map fun j => base + BitVec.ofNat 64 j * s.rd b) = .ok ps →
       (∀ p ∈ ps, s.poisonIn p.2.key 4 = none ∧ s.Keyed p.2 4 ∧ s.heldByOther (some s.th.tid) p.2.key 4 = none) →
       loads (.vlds d a b m la) (fun v => ∀ i p, ps[i]? = some p → lane 32 v i = s.mem.readN p.2.key 4)) ∧
     (∀ ps, placesOf s .read 4 ((List.range 16).map fun j => base + BitVec.ofNat 64 (lane 32 (s.rdv b) j)) = .ok ps →
       (∀ p ∈ ps, s.poisonIn p.2.key 4 = none ∧ s.Keyed p.2 4 ∧ s.heldByOther (some s.th.tid) p.2.key 4 = none) →
       loads (.vgat d a b m la) (fun v => ∀ i p, ps[i]? = some p → lane 32 v i = s.mem.readN p.2.key 4)) ∧
     (s.Unlogged → s.Reaches .store 64 base pl → s.heldByOther (some s.th.tid) pl.key 64 = none →
       ∃ t, exec (.vst d a m) s = .next t ∧ (∀ j, t.mem.read j =
           if pl.key ≤ j ∧ j < pl.key + 64 then byteOf (s.rdv d) (j - pl.key) else s.mem.read j) ∧
         (∀ e, t.rd e = s.rd e) ∧ (∀ e, t.rdv e = s.rdv e) ∧ t.th.pc = s.th.step4.pc ∧ t.empties = s.empties ∧ t.others = s.others))

/-! ### The matrix unit -/

/-- The matrix group (09 R144, R147, R152; 21 R354, R356, R360 to R363; 22 R370). With room in the core's queue, MCFG, MRING, MST and MDUP
enter it with the operands read and their thread waits at them; MZERO and MMA enter it and the thread goes on, after MMA only once
its last step has retired; RPUSH pushes w[a] tiles and gives the free slots, or pushes nothing and gives all ones.
The matrix unit at its queue's head (09 R143 to R145, R148, R150, R152; 21 R354, R361, R363): an MCFG or MRING takes effect with status 0, or
changes nothing with status 1, and its thread goes on; an MZERO zeroes its accumulator and no other; an accepted MMA starts with the
format and map it captures. A step waits for a tile on both of its rings, and for its core's turn in the quad's rotation; it takes one tile from each, changes its own
accumulator alone, makes its core the last one that the quad's unit has served, and after the last one the unit is idle. -/
def Obligations.MatrixUnit : Prop :=
  (∀ (s : State) (d a b c : Reg) (k : BitVec 2) (ra rb : BitVec 3) (x y : BitVec 2) (z : BitVec 1) (n : BitVec 8) (u : BitVec 1)
     (pl : Place), s.Free [d, a] → s.Calm → s.th.displaced = false → s.core.mx.queue.length < 2 →
     let pushed (o : MxOp) : Core := { s.core with mx := { s.core.mx with queue := s.core.mx.queue ++ [o] } }
     let waits (i : Instr) (o : MxOp) (r : Reg) : Prop :=
       exec i s = .next { s with core := pushed o, th := { s.th with pipe := { s.th.pipe with matrixWait := some r } } }
     waits (.mcfg d a) (.mcfg s.th.tid d (s.rd a)) d ∧
     waits (.mring d a) (.mring s.th.tid d (s.rd a)) d ∧
     exec (.mzero c) s = .next { s with core := pushed (.mzero s.th.tid (c.extractLsb' 0 2)), th := s.th.passed } ∧
     exec (.mma k ra rb x y z n u) s = .next { s with
       core := pushed (.mma s.th.tid (.mma k ra rb x y z n u))
       th := { s.th.passed with pipe := { s.th.passed.pipe with mmaWait := true } } } ∧
     (quadPlace s 64 (128 * viewRows b) true (s.rd a) = .ok pl →
       waits (.mst a b c) (.mst s.th.tid (s.rd a) b (c.extractLsb' 0 2) 0) 0) ∧
     (quadPlace s 128 128 false (s.rd a) = .ok pl → waits (.mdup a) (.mdup s.th.tid (s.rd a)) 0) ∧
     (let j : BitVec 3 := c.extractLsb' 0 3
      let r := s.core.mx.ring j
      (r.nslot ≠ 0 → r.tail - r.head + (s.rd a).toNat ≤ r.nslot →
        Puts (exec (.rpush d a c) s)
          { s with core := { s.core with mx := s.core.mx.setRing j { r with tail := r.tail + (s.rd a).toNat } } } d
          (BitVec.ofNat 64 (r.nslot - (r.tail - r.head) - (s.rd a).toNat))) ∧
      (r.nslot = 0 ∨ r.nslot < r.tail - r.head + (s.rd a).toNat → Puts (exec (.rpush d a c) s) s d (BitVec.allOnes 64)))) ∧
  (∀ (s : State) (d : Reg) (v : Word) (rest : List MxOp), s.Focused → s.Quiet →
     let mx := s.core.mx
     let status (m : Matrix) (st : Word) : Prop :=
       ∃ t, exec (.matrixQueueHead s.core.cid) s = .next t ∧ t.core = { s.core with mx := m } ∧ (d ≠ 0 → t.rd d = st) ∧
         (∀ e, e ≠ d → t.rd e = s.rd e) ∧ t.th.pc = s.th.step4.pc ∧ t.th.pipe.matrixWait = none ∧ t.mem = s.mem
     (mx.queue = .mcfg s.th.tid d v :: rest →
       (mcfgOf v = none → status { mx with queue := rest } 1) ∧
       (∀ g, mcfgOf v = some g → status { mx with queue := rest, cfg := g } 0)) ∧
     (mx.queue = .mring s.th.tid d v :: rest → mx.run = none →
       (mringOf v = none → status { mx with queue := rest } 1) ∧
       (∀ r, mringOf v = some r →
         status { mx with queue := rest, rings := (mx.setRing (v.extractLsb' 61 3) r).rings } 0)) ∧
     (∀ t0 k, mx.queue = .mzero t0 k :: rest → mx.run = none →
       ∃ t, exec (.matrixQueueHead s.core.cid) s = .next t ∧ t.core.mx.accum k = 0 ∧
         (∀ j, j ≠ k → t.core.mx.accum j = mx.accum j) ∧
         t = { s with core := { s.core with mx := { mx with queue := rest, acc := t.core.mx.acc } } }) ∧
     (∀ t0 i r, mx.queue = .mma t0 i :: rest → mx.run = none → captured mx t0 i = some r → mmaRefused s s.core.cid mx r = false →
       exec (.matrixQueueHead s.core.cid) s = .next { s with core := { s.core with mx := { mx with queue := rest, run := some r } } } ∧
       r.cfg = mx.cfg ∧ r.map = mx.map ∧ r.step = 0) ∧
     (∀ r, mx.run = some r →
       ((mx.ring r.ra).pushed = false ∨ (mx.ring r.rb).pushed = false → exec (.mmaStep s.core.cid) s = .next s) ∧
       (s.unitTurn s.core.cid = false → exec (.mmaStep s.core.cid) s = .next s) ∧
       ((mx.ring r.ra).pushed = true → (mx.ring r.rb).pushed = true → s.unitTurn s.core.cid = true →
         let ta := headTile s s.core.cid (mx.ring r.ra) r.cfg.fa r.cfg.sca r.bka
         let tb := headTile s s.core.cid (mx.ring r.rb) r.cfg.fb r.cfg.scb r.bkb
         stepErrors s r ta tb = [] →
         ∃ t, exec (.mmaStep s.core.cid) s = .next t ∧ (t.core.mx.ring r.ra).head = (mx.ring r.ra).head + 1 ∧
           (t.core.mx.ring r.rb).head = (mx.ring r.rb).head + 1 ∧ (∀ j, j ≠ r.ra → j ≠ r.rb → t.core.mx.ring j = mx.ring j) ∧
           (∀ j, j ≠ r.acc → t.core.mx.accum j = mx.accum j) ∧
           t.core.mx.accum r.acc = stepAccum s r ta tb (if r.step = 0 ∧ r.zero = true then 0 else mx.accum r.acc) ∧
           t.core.mx.run = (if r.left ≤ 1 then none else some { r with left := r.left - 1, step := r.step + 1 }) ∧
           (t.dispenser (cidQuad s.core.cid)).served = quadNumber s.core.cid ∧
           t.mem = s.mem ∧ (∀ e, t.rd e = s.rd e) ∧ t.th.pc = s.th.pc ∧
           (r.left ≤ 1 → (t.thread r.owner).pipe.mmaWait = false))))

/-! ### The engines -/

/-- CPY, CPYW, CPYRES and GATH (11 R179, R180, R184, R185, R188; 20 R326 to R328): an accepted copy or gather is queued as the job whose number
w[c] or w[d] receives, and a refused one gives all ones; CPYW returns the result of a job that is over or faulted, 0xFE for a
number above 15, and otherwise stays pending; CPYRES sets a faulted job running and answers 0, or answers 1.
The job scheduler, the copy engine and the table walker (11 R103, R181, R189): a job that may start runs; a running copy moves its next granule,
64 bytes from its source to its destination and no other byte, once nothing of the path to either place is on its way (02 R26), becomes the job last served, and goes on to the following one; the walk of a gather keeps the source of
each entry and the SKIP bit of each entry that it skips. -/
def Obligations.Engines : Prop :=
  (∀ (s : State) (d a b c l : Reg), s.Free [d, a, b, c] →
     (s.Calm → s.th.logs = false →
       rangeCause s true (s.rd b).toNat (s.rd d) = none → rangeCause s false (s.rd b).toNat (s.rd a) = none →
       (copyRefused (s.absAddr (s.rd a)) (s.absAddr (s.rd d)) (s.rd b) = true →
         PutsLate (exec (.cpy d a b c l) s) s c l (BitVec.allOnes 64)) ∧
       (copyRefused (s.absAddr (s.rd a)) (s.absAddr (s.rd d)) (s.rd b) = false → s.rd b ≠ 0 →
         ∃ (j : Job) (res : List (BitVec 4 × Word)), j.num = s.core.rotation ∧ j.owner = s.th.tid ∧ j.src = s.absAddr (s.rd a) ∧
           j.dst = s.absAddr (s.rd d) ∧ j.granules = (s.rd b).toNat / 64 ∧ j.done = 0 ∧ j.gather = false ∧ j.st = .queued ∧
           PutsLate (exec (.cpy d a b c l) s)
             { s with nextId := s.nextId + 1, core := { s.core with jobs := [j], rotation := s.core.rotation + 1, results := res } } c l
             (s.core.rotation.setWidth 64))) ∧
     (s.Focused → s.Quiet →
       (d = 0 → exec (.cpyw d a l) s = .next { s with th := s.th.passed }) ∧
       (d ≠ 0 → 15 < (s.rd a).toNat → PutsLate (exec (.cpyw d a l) s) s d l 0xFE) ∧
       (∀ x, d ≠ 0 → (s.rd a).toNat ≤ 15 → s.core.jobResult ((s.rd a).setWidth 4) = some x →
         PutsLate (exec (.cpyw d a l) s) s d l x) ∧
       (d ≠ 0 → (s.rd a).toNat ≤ 15 → s.core.jobResult ((s.rd a).setWidth 4) = none →
         ∃ t, exec (.cpyw d a l) s = .next t ∧ (∀ e, t.rd e = s.rd e) ∧ t.mem = s.mem ∧ t.th.pc = s.th.step4.pc ∧
           ∃ p ∈ t.th.pipe.pend, p.reg = wReg d ∧ p.left = l.toNat ∧ p.st = .job ((s.rd a).setWidth 4)) ∧
       (15 < (s.rd a).toNat ∨ (∀ j, s.core.job ((s.rd a).setWidth 4) = some j → j.st ≠ .faulted) →
         Puts (exec (.cpyres d a) s) s d 1) ∧
       (∀ j, (s.rd a).toNat ≤ 15 → s.core.job ((s.rd a).setWidth 4) = some j → j.st = .faulted →
         ∃ t, exec (.cpyres d a) s = .next t ∧ (d ≠ 0 → t.rd d = 0) ∧ (∀ e, e ≠ d → t.rd e = s.rd e) ∧ t.mem = s.mem ∧
           t.core.job j.num = some { j with st := .running } ∧ t.th.pc = s.th.step4.pc)) ∧
     (∀ ps, s.Calm → s.th.logs = false → s.Gives 32 1 (s.rd a) ps →
       let ws := pieceWords s 32 (ps.map (·.2))
       (gathRefused ws = true → PutsLate (exec (.gath d a l) s) s d l (BitVec.allOnes 64)) ∧
       (gathRefused ws = false → rangeCause s true (64 * (gathCount ws * gathPgran ws)) (recWord ws 0) = none →
         ∃ (j : Job) (res : List (BitVec 4 × Word)), j.num = s.core.rotation ∧ j.owner = s.th.tid ∧ j.dst = s.absAddr (recWord ws 0) ∧
           j.granules = gathCount ws * gathPgran ws ∧ j.gather = true ∧ j.sources = none ∧ j.st = .queued ∧
           PutsLate (exec (.gath d a l) s)
             { s with nextId := s.nextId + 1, core := { s.core with jobs := [j], rotation := s.core.rotation + 1, results := res } } d l
             (s.core.rotation.setWidth 64)))) ∧
  (∀ (s : State) (n : BitVec 4) (j : Job), s.core.job n = some j →
     (s.core.mayStart j = true → exec (.copyJobStart s.core.cid n) s = .next { s with core := s.core.putJob { j with st := .running } }) ∧
     (∀ sp dp, s.Quiet → s.Canonical → j.st = .running → j.gather = false → j.done + 1 < j.granules →
       let ag := (s.thread j.owner).agent
       let src := j.src + BitVec.ofNat 64 (64 * j.done)
       let dst := j.dst + BitVec.ofNat 64 (64 * j.done)
       resolve s ag .engineRead 64 src = .ok sp → dataError s sp src 64 = none → sp.Ordinary (s.partOf ag.part) 8 →
       resolve s ag .engineWrite 64 dst = .ok dp → s.heldByOther (some j.owner) dp.key 64 = none → s.Keyed sp 64 → s.Keyed dp 64 →
       s.pathTaken s.core.cid sp.key = false → s.pathTaken s.core.cid dp.key = false →
       ∃ t, exec (.copyGranule s.core.cid n) s = .next t ∧ t.core = { s.core.putJob { j with done := j.done + 1 } with copyTurn := n } ∧ t.th = s.th ∧
         ∀ k, t.mem.read k = if dp.key ≤ k ∧ k < dp.key + 64 then s.mem.read (sp.key + (k - dp.key)) else s.mem.read k) ∧
     (∀ srcs, j.st = .running → j.gather = true → j.sources = none → gathSources s (s.thread j.owner).agent j j.count 0 = .ok srcs →
       ∃ skip, exec (.gathWalk s.core.cid n) s = .next { s with core := s.core.putJob { j with sources := some srcs, skip := skip } } ∧
         ∀ i, i < 16 → i < srcs.length → skip.getLsbD i = (srcs[i]? == some none)))

/-- COLL and its match at the die's engine (11 R191, R192, R194; 20 R325): a refused COLL gives 1; an accepted one
joins the core's collective queue, its result pending; a queued one leaves the queue with its input; an instance whose
participants disagree gives 3 and leaves; and one of two dies that agree, arrived with their inputs, writes each element of the result to both destinations and no
other byte, combined in rank order (R193), gives both 0 and leaves.
BAR and QUIES (11 R195 to R197; 20 R322; 22 R365): BAR sends its arrival on the barrier that w[a] names, and leaves w[d] pending on it; at the tree's root
an arrival is counted, which into w0 leaves nothing pending (04 R57), the last of a generation raises GEN, clears ARR and gives the new GEN, and with COUNT 0 it gives GEN at once. QUIES leaves w[d]
pending, and gives the CLK of the start of a span of 2,048 idle cycles; into w0 it does not wait. The model's choices: the clock is read as core 0 reads it (log entry
7), and which slots count as idle (log entry 56). -/
def Obligations.CollectivesAndBarriers : Prop :=
  ((∀ (s : State) (d a l : Reg) (ps : List (Word × Place)), s.Free [d, a] → s.Calm → s.Gives 64 1 (s.rd a) ps →
     let ws := pieceWords s 64 (ps.map (·.2))
     (collRefused s (cidDie s.th.cid) ws = true → PutsLate (exec (.coll d a l) s) s d l 1) ∧
     (collRefused s (cidDie s.th.cid) ws = false →
       ∃ t q, exec (.coll d a l) s = .next t ∧ t.core.cq = [q] ∧ q.owner = s.th.tid ∧ q.reg = d ∧ q.tag = recWord ws 2 ∧
         q.src = s.absAddr (recWord ws 0) ∧ q.dst = s.absAddr (recWord ws 1) ∧ q.input = none ∧ (∀ e, t.rd e = s.rd e) ∧
         t.mem = s.mem ∧ t.th.pc = s.th.step4.pc ∧
         (d ≠ 0 → ∃ p ∈ t.th.pipe.pend, p.reg = wReg d ∧ p.left = l.toNat ∧ p.st = .collective (recWord ws 2)))) ∧
   (∀ (s : State) (q : CollOp), s.cores = [] → s.core.cq = [q] →
     (s.collMayLeave s.core q = true →
       exec (.collMatch q.tag) s = .next { s with core := { s.core with cq := [{ q with input := some (s.collInput q) }] } }) ∧
     (∀ (n u : Nat) (pc i : Word), s.Focused → s.Quiet → q.owner = s.th.tid → q.reg ≠ 0 → q.input.isSome = true →
       s.th.pipe.pend = [⟨wReg q.reg, n, u, pc, .collective q.tag, i⟩] →
       s.collLost q.tag = none → collComplete [q] = true → collDisagree [q] = true →
       ∃ t, exec (.collMatch q.tag) s = .next t ∧ t.rd q.reg = 3 ∧ (∀ e, e ≠ q.reg → t.rd e = s.rd e) ∧ t.core.cq = [] ∧ t.mem = s.mem)) ∧
   (∀ (s : State) (c : Core) (y : Thread) (q p : CollOp) (xs ys : List Byte) (dq dp : Place) (n u k v : Nat) (i j pc pd : Word),
     s.Focused → s.Quiet → s.Canonical → s.held = [] → s.waiters = [] → s.cores = [c] → s.others = [y] → c.cid ≠ s.core.cid →
     s.core.cq = [q] → c.cq = [p] → q.owner = s.th.tid → p.owner = y.tid → tidCore q.owner = s.core.cid → tidCore p.owner = c.cid →
     q.owner ≠ p.owner → q.reg ≠ 0 → p.reg ≠ 0 →
     s.th.pipe.pend = [⟨wReg q.reg, n, u, pc, .collective q.tag, i⟩] → y.pipe.pend = [⟨wReg p.reg, k, v, pd, .collective p.tag, j⟩] →
     q.tag = p.tag → q.word3 = p.word3 → q.peers = 0 → p.peers = 0 → q.die.toNat < p.die.toNat →
     (∀ b, b < 16 → q.dies.getLsbD b = (b == q.die.toNat || b == p.die.toNat)) → q.input = some xs → p.input = some ys → xs ≠ [] → ys ≠ [] →
     q.op < 7 → q.op ≠ 5 ∨ q.rootIn = true → 0 < q.count → q.len ≤ 64 →
     resolve s q.agent .engineWrite 64 q.dst = .ok dq → resolve s p.agent .engineWrite 64 p.dst = .ok dp → dq.Ordinary (s.partOf q.part) 8 →
     dp.Ordinary (s.partOf p.part) 8 → s.Keyed dq q.len → s.Keyed dp q.len → dq.key + 64 ≤ dp.key ∨ dp.key + 64 ≤ dq.key →
     let each (a b : Nat) : Nat := match q.op with
       | 0 => fF32.round 0 (.add 0 (fF32.value a) (fF32.value b))
       | 1 => fF64.round 0 (.add 0 (fF64.value a) (fF64.value b))
       | 2 => a + b
       | 3 => fF32.maxCode a b
       | 4 => if (BitVec.ofNat 64 a).toInt < (BitVec.ofNat 64 b).toInt then b else a
       | 5 => if q.isRoot then a else b
       | _ => if better b a then b else a
     ∃ t, exec (.collMatch q.tag) s = .next t ∧
       (∀ (pl : Place) (m : Nat), pl = dq ∨ pl = dp → m < q.count → t.mem.readN (pl.key + m * q.elem) q.elem =
         each ((elements q.elem q.count xs).getD m 0) ((elements q.elem q.count ys).getD m 0) % 2 ^ (8 * q.elem)) ∧
       (∀ b, ¬(dq.key ≤ b ∧ b < dq.key + q.len) → ¬(dp.key ≤ b ∧ b < dp.key + q.len) → t.mem.read b = s.mem.read b) ∧
       t.rd q.reg = 0 ∧ (t.thread p.owner).rd p.reg = 0 ∧ (∀ e, e ≠ q.reg → t.rd e = s.rd e) ∧ t.core.cq = [] ∧ (t.coreOf c.cid).cq = [])) ∧
  ((∀ (s : State) (d a l : Reg), s.Free [d, a] →
     let pends (i : Instr) (st : PendState) : Prop :=
       ∃ t, exec i s = .next t ∧ (∀ e, t.rd e = s.rd e) ∧ t.mem = s.mem ∧ t.th.pc = s.th.step4.pc ∧
         ∃ p ∈ t.th.pipe.pend, p.reg = wReg d ∧ p.left = l.toNat ∧ p.st = st
     (s.Calm → pends (.bar d a l) (.barrier ((s.rd a).setWidth 6) false)) ∧
     (d ≠ 0 → pends (.quies d l) .quiet) ∧
     (d = 0 → exec (.quies d l) s = .next { s with th := s.th.passed })) ∧
   (∀ (s : State) (r : Reg) (k u : Nat) (pc i : Word), s.Focused → s.Quiet → s.others = [] → s.th.active = true →
     (∀ n : BitVec 6, s.th.pipe.pend = [⟨wReg r, k, u, pc, .barrier n false, i⟩] →
       let x := s.part.bar n
       let root (p : State → Prop) : Prop :=
         ∃ t, exec (.barrierArrival s.th.tid) s = .next t ∧ p t ∧ (∀ e, e ≠ r → t.rd e = s.rd e) ∧ t.mem = s.mem ∧
           (∀ m, m ≠ n → t.part.bar m = s.part.bar m)
       (barCount x = 0 → root fun t => (r ≠ 0 → t.rd r = BitVec.ofNat 64 (barGen x)) ∧ (r = 0 → t.th.pipe.pend = []) ∧ t.part.bar n = x) ∧
       (barArr x + 1 < barCount x → root fun t => t.rd r = s.rd r ∧ (r = 0 → t.th.pipe.pend = []) ∧ barArr (t.part.bar n) = barArr x + 1 ∧
         barGen (t.part.bar n) = barGen x ∧ barCount (t.part.bar n) = barCount x) ∧
       (barCount x ≠ 0 → barCount x ≤ barArr x + 1 → root fun t =>
         (r ≠ 0 → t.rd r = BitVec.ofNat 64 ((barGen x + 1) % 2 ^ 24)) ∧ (r = 0 → t.th.pipe.pend = []) ∧
         barArr (t.part.bar n) = 0 ∧ barGen (t.part.bar n) = (barGen x + 1) % 2 ^ 24 ∧ barCount (t.part.bar n) = barCount x)) ∧
     (∀ n : Nat, r ≠ 0 → s.th.pipe.pend = [⟨wReg r, k, u, pc, .quiet, i⟩] → s.part.quietSince = some n → n + 2048 ≤ s.cycle →
       ∃ t, exec (.quiescenceSpanComplete s.part.num) s = .next t ∧ t.rd r = s.clkAt 0 n ∧ (∀ e, e ≠ r → t.rd e = s.rd e) ∧
         t.part.quietSince = none ∧ t.mem = s.mem)))

/-! ### The prefix-and-KV unit and the text group -/

/-- BHASH, ANCM and PFXLOOK (12 R200, R201, R204, R205, R211): the chained hash of the sixteen tokens; the nodes on the path from node w[b] to its root,
whatever its length, and 0 for a node above 63, a path that leaves the table or a cycle; and the index of the first way of the key's bucket that is valid
and holds its tag, with bit 63 for a claimed one, or all ones. That ANCM reads its table for a node above 63 too is the model's reading (log entry 94). -/
def Obligations.PrefixReads : Prop :=
  ∀ (s : State) (d a b l : Reg), s.Free [d, a, b] → s.Calm →
    (∀ ps, s.Gives 4 16 (s.rd b) ps →
      let token (i : Nat) : Word := (((ps[i]?).map fun p => unitHalf s p.2).getD 0).setWidth 64
      PutsLate (exec (.bhash d a b l) s) s d l
        ((List.range 16).foldl (fun h i => h ^^^ (token i).rotateLeft (4 * i)) ((s.rd a).rotateLeft 13))) ∧
    (∀ pl, s.Gives 64 1 (s.rd a) [(s.rd a, pl)] → pl.Ordinary s.part 8 → s.Keyed pl 64 →
      let n := (s.rd b).toNat
      let parent (i : Nat) : Nat := (s.mem.read (pl.key + i)).toNat
      (64 ≤ n → PutsLate (exec (.ancm d a b l) s) s d l 0) ∧
      (∀ path : List Nat, path.head? = some n → path.Nodup → (∀ x ∈ path, x < 64) →
        (∀ i, i + 1 < path.length → path.getD (i + 1) 0 = parent (path.getD i 0)) →
        let next := parent (path.getD (path.length - 1) 0)
        (next = 0xFF → PutsLate (exec (.ancm d a b l) s) s d l (BitVec.ofNat 64 (path.map (2 ^ ·)).sum)) ∧
        (next ∈ path → PutsLate (exec (.ancm d a b l) s) s d l 0) ∧
        (64 ≤ next → next ≠ 0xFF → PutsLate (exec (.ancm d a b l) s) s d l 0))) ∧
    (∀ tb key, s.HasTable (s.rd a) tb → s.HasKey (s.rd b) key →
      let first := 4 * tb.bucket (recWord key 1)
      let match_ (w : Nat) : Bool := swValid (tb.word s (first + w) 0) && tb.tagged s key (first + w)
      (∀ w, w < 4 → sbmError s (tb.entry (first + w)) 64 = none ∧ sbmError s (tb.entry (first + w) + 64) 64 = none) →
      ((∀ w, w < 4 → match_ w = false) → PutsLate (exec (.pfxlook d a b l) s) s d l (BitVec.allOnes 64)) ∧
      (∀ w, w < 4 → match_ w = true → (∀ v, v < w → match_ v = false) →
        PutsLate (exec (.pfxlook d a b l) s) s d l
          (BitVec.ofNat 64 (first + w + (if swClaimed (tb.word s (first + w) 0) then 2 ^ 63 else 0)))))

/-- PFXINS (12 R206, R207): in a frame or a task it answers that it is refused; while the thread holds a word it is illegal; with the
bucket's header free, a way that holds the tag is pinned once more and its index given with bit 62, all ones going to key
word 0; otherwise the first way that may be claimed is claimed and its index given; and without one all ones. No byte
outside that entry, the header and key word 0 changes.
PFXPIN and PFXUNPIN (12 R208, R209): outside frames and tasks, a ready entry whose tag is the key's gains a pin, and a pinned one loses one, the
new count in w[d]; no byte outside the entry's state word changes. An index outside the table gives all ones. -/
def Obligations.PrefixUpdates : Prop :=
  (∀ (s : State) (d a b l : Reg), s.Free [d, a, b] →
     let i : Instr := .pfxins d a b l
     (s.th.holding ≠ none → exec i s = .next (s.takeTrap ⟨0x01, 0, (encode i).setWidth 64⟩)) ∧
     (s.Calm → s.th.holding = none → s.th.st tSPEC = true ∨ s.th.st tBOOST = true →
       PutsLate (exec i s) s d l (BitVec.allOnes 64 - 2)) ∧
     (∀ tb key kpl, s.Calm → s.Canonical → s.th.holding = none → s.th.st tSPEC = false → s.th.st tBOOST = false →
       s.HasTable (s.rd a) tb → s.HasKey (s.rd b) key → resolve s s.th.agent .store 8 (s.rd b) = .ok kpl →
       kpl.special = .none → s.Keyed kpl 8 → s.held = [] → s.waiters = [] →
       let bk := tb.bucket (recWord key 1)
       let header := sbmAt (tb.header bk)
       let entry (w : Nat) : Nat := sbmAt (tb.entry (4 * bk + w))
       let match_ (w : Nat) : Bool := swValid (tb.word s (4 * bk + w) 0) && tb.tagged s key (4 * bk + w)
       tb.bucketError s bk = none →
       (∀ w, w < 4 → match_ w = true → (∀ v, v < w → match_ v = false) → swPin (tb.word s (4 * bk + w) 0) < 65535 →
         ∃ m po, PutsLate (exec i s) { s with mem := m, poison := po } d l
             (BitVec.ofNat 64 (4 * bk + w + 2 ^ 62 + (if swClaimed (tb.word s (4 * bk + w) 0) then 2 ^ 63 else 0))) ∧
           (∀ j, ¬(entry w ≤ j ∧ j < entry w + 8) → ¬(header ≤ j ∧ j < header + 8) → ¬(kpl.key ≤ j ∧ j < kpl.key + 8) →
             m.read j = s.mem.read j) ∧
           (Apart kpl.key (entry w) 8 → Apart header (entry w) 8 → Apart kpl.key header 8 →
             swPin (m.word (entry w)) = swPin (tb.word s (4 * bk + w) 0) + 1 ∧ m.word kpl.key = BitVec.allOnes 64)) ∧
       ((∀ w, w < 4 → match_ w = false) → tb.candidates s bk = [] →
         ∃ m po, PutsLate (exec i s) { s with mem := m, poison := po } d l (BitVec.allOnes 64) ∧
           ∀ j, ¬(header ≤ j ∧ j < header + 8) → ¬(kpl.key ≤ j ∧ j < kpl.key + 8) → m.read j = s.mem.read j) ∧
       (∀ e rest, (∀ w, w < 4 → match_ w = false) → tb.candidates s bk = e :: rest →
         let at_ := sbmAt (tb.entry e)
         ∃ m po em, PutsLate (exec i s) { s with mem := m, poison := po, empties := em } d l (BitVec.ofNat 64 e) ∧
           (∀ j, ¬(at_ ≤ j ∧ j < at_ + 128) → ¬(header ≤ j ∧ j < header + 8) → ¬(kpl.key ≤ j ∧ j < kpl.key + 8) →
             m.read j = s.mem.read j) ∧
           (Apart kpl.key at_ 128 → Apart header at_ 128 →
             swValid (m.word at_) = true ∧ swClaimed (m.word at_) = true ∧ swPin (m.word at_) = 1)))) ∧
  (∀ (s : State) (d a b c l : Reg) (tb : PrefixTable), s.Free [d, a, b, c] → s.Calm → s.Canonical → s.HasTable (s.rd a) tb →
     s.th.speculates = false → (∀ h ∈ s.held, h.holder ≠ .turn s.th.tid) →
     let n := (s.rd b).toNat
     let at_ := sbmAt (tb.entry n)
     let w := tb.word s n 0
     let sets (i : Instr) (pin : Nat) : Prop :=
       ∃ m po, PutsLate (exec i s) { s with mem := m, poison := po } d l (BitVec.ofNat 64 pin) ∧ swPin (m.word at_) = pin ∧
         swValid (m.word at_) = swValid w ∧ ∀ j, ¬(at_ ≤ j ∧ j < at_ + 8) → m.read j = s.mem.read j
     (4 * 2 ^ tb.logb ≤ n → PutsLate (exec (.pfxpin d a b c l) s) s d l (BitVec.allOnes 64) ∧
       PutsLate (exec (.pfxunpin d a b l) s) s d l (BitVec.allOnes 64)) ∧
     (∀ key, n < 4 * 2 ^ tb.logb → s.HasKey (s.rd c) key → sbmError s (tb.header (n / 4)) 8 = none →
       sbmError s (tb.entry n) 128 = none → s.unheld at_ = true → swValid w = true → swClaimed w = false → swPin w < 65535 →
       tb.tagged s key n = true → sets (.pfxpin d a b c l) (swPin w + 1)) ∧
     (n < 4 * 2 ^ tb.logb → sbmError s (tb.entry n) 64 = none → s.unheld at_ = true → swValid w = true → swPin w ≠ 0 →
       sets (.pfxunpin d a b l) (swPin w - 1)))

/-- KVAPP (21 R345, R346): outside frames and tasks, a refused descriptor gives all ones less 3, and a position other than LEN gives all ones; a row
of 64 bytes is copied to its place in the page of its position, LEN goes up by one, w[d] is the position, and no other byte changes. -/
def Obligations.CacheAppend : Prop :=
  ∀ (s : State) (d a b c l : Reg) (ps : List (Word × Place)), s.Free [d, a, b, c] → s.Calm → s.Canonical → s.th.holding = none →
    s.th.speculates = false → s.Gives 32 1 (s.rd a) ps → s.held = [] →
    let ws := pieceWords s 32 (ps.map (·.2))
    let p := (s.rd c).toNat % 2 ^ 32
    let i : Instr := .kvapp d a b c l
    (kvRefused ws = true → PutsLate (exec i s) s d l (BitVec.allOnes 64 - 3)) ∧
    (∀ rps hp, kvRefused ws = false → placesFrom s .unitRead 64 (kvRow ws / 64) (s.rd b) = .ok rps →
      resolve s s.th.agent .feBoth 8 (s.rd a) = .ok hp → addrSpace (s.rd a) ≠ 3 →
      (kvLen ws ≠ p → PutsLate (exec i s) s d l (BitVec.allOnes 64)) ∧
      (∀ rp cpl tp, kvLen ws = p → kvRow ws = 64 → p / 16 < kvPages ws → rps = [(s.rd b, rp)] → rp.Ordinary s.part 8 →
        dataError s rp (s.rd b) 64 = none → s.Keyed hp 8 → s.Keyed rp 64 →
        let chain := recWord ws 1 + BitVec.ofNat 64 (8 * (p / 16))
        resolve s s.th.agent .unitRead 8 chain = .ok cpl → dataError s cpl chain 8 = none → cpl.Ordinary s.part 1 →
        s.Keyed cpl 8 →
        let page := s.mem.word cpl.key
        let row := page + BitVec.ofNat 64 (64 * (p % 16))
        page ≠ BitVec.allOnes 64 → rangeCause s true 64 row = none → resolve s s.th.agent .engineWrite 64 row = .ok tp → s.Keyed tp 64 →
        ∃ m po, PutsLate (exec i s) { s with mem := m, poison := po } d l (BitVec.ofNat 64 p) ∧
          ∀ j, m.read j = if hp.key ≤ j ∧ j < hp.key + 8 then byteOf (BitVec.ofNat 64 (p + 1)) (j - hp.key)
            else if tp.key ≤ j ∧ j < tp.key + 64 then s.mem.read (rp.key + (j - tp.key)) else s.mem.read j))

/-- UTFB and TRIE (17 R282, R283; 22 R379, R381): both write the new state into w[a] and the result into w[d]. From the empty state UTFB gives an
ASCII byte as its code point, keeps a lead byte, and refuses any other byte; a second byte completes a sequence of two.
TRIE ignores a symbol with bit 63 set; from the root, a symbol without an edge restarts or gives its byte token, and one with an
edge moves to the child and notes its token. -/
def Obligations.TextGroup : Prop :=
  ∀ (s : State) (d a b c : Reg), s.Free [d, a, b, c] → d ≠ a → a ≠ 0 →
    let sets (i : Instr) (st r : Word) : Prop :=
      ∃ t, exec i s = .next t ∧ t.rd a = st ∧ (d ≠ 0 → t.rd d = r) ∧ (∀ e, e ≠ d → e ≠ a → t.rd e = s.rd e) ∧
        t = { s with th := { s.th.passed with w := t.th.w } }
    let x := (s.rd b).toNat % 256
    ((s.rd b).getLsbD 8 = false →
      (s.rd a = 0 → x ≤ 0x7F → sets (.utfb d a b) 0 (BitVec.ofNat 64 x)) ∧
      (s.rd a = 0 → 0xC2 ≤ x → x ≤ 0xDF → sets (.utfb d a b) (BitVec.ofNat 64 (x * 256 + 5)) (BitVec.ofNat 64 (2 ^ 63))) ∧
      (s.rd a = 0 → (0x80 ≤ x ∧ x ≤ 0xC1) ∨ 0xF5 ≤ x → sets (.utfb d a b) 0 (BitVec.ofNat 64 (2 ^ 62 + x))) ∧
      (∀ y : Nat, 0xC2 ≤ y → y ≤ 0xDF → s.rd a = BitVec.ofNat 64 (y * 256 + 5) → 0x80 ≤ x → x ≤ 0xBF →
        sets (.utfb d a b) 0 (BitVec.ofNat 64 (y % 32 * 64 + x % 64)))) ∧
    (s.Calm → (s.rd b).getLsbD 63 = true → sets (.trie d a b c) (s.rd a) (BitVec.ofNat 64 (2 ^ 63))) ∧
    (∀ hp np : Place, s.Calm → (s.rd b).getLsbD 63 = false → (s.rd b).getLsbD 60 = false → bits (s.rd a) 15 8 = 0 →
      s.Reaches .read 8 (s.rd c) hp →
      let h := s.mem.word hp.key
      let node := bits h 23 0
      s.Reaches .read 8 (trieAt (s.rd c) node) np →
      (bits (s.mem.word np.key) 15 0 = 0 →
        sets (.trie d a b c) (if (s.rd b).getLsbD 62 then s.rd a else 0)
          (if (s.rd b).getLsbD 62 then BitVec.ofNat 64 (2 ^ 62 + (bits h 63 32 + bits (s.rd b) 20 0) % 2 ^ 32)
           else BitVec.allOnes 64)) ∧
      (∀ ep kp : Place, bits (s.mem.word np.key) 15 0 = 1 → s.Reaches .read 8 (trieAt (s.rd c) (node + 1)) ep →
        let e := s.mem.word ep.key
        let child := bits e 23 0
        bits e 63 42 = (if (s.rd b).getLsbD 62 then 2 ^ 21 else 0) + bits (s.rd b) 20 0 → child ≠ 0 →
        s.Reaches .read 8 (trieAt (s.rd c) child) kp → bits (s.mem.word kp.key) 63 32 ≠ 2 ^ 32 - 1 →
        sets (.trie d a b c) (BitVec.ofNat 64 (child * 2 ^ 40 + child * 2 ^ 16 + 2 ^ 8 + 1)) (BitVec.ofNat 64 (2 ^ 63))))

/-! ### The host's commands and registers -/

/-- LAUNCH, COPY, SIGNAL and WAIT on an idle queue (18 R290): a good record is queued as a launch of the queue's partition; a copy is queued at the
front end, and moves a granule at a time; a signal stores its value and sets the word full; a wait on a full word is accepted, and on an
empty one holds its queue. -/
def Obligations.HostCommands : Prop :=
  ∀ (s : State) (q : BitVec 12) (done : Word), s.Takes q false none →
    let p := (s.queueOf q).part
    let ag := s.partAgent p
    (∀ rec pl, resolve s ag .unitRead 128 rec = .ok pl → dataError s pl rec 128 = none →
      let ws := unitWords s (s.partOf p) pl 16
      recordStatus (s.partOf p) ws = 0 →
      Accepts (exec (.launchCommand q done rec) s) q fun t => ∃ l : Launch, t.launches = s.launches ++ [l] ∧ l.part = p ∧
        l.record = ws ∧ l.arrival = s.cycle ∧ l.next = 0 ∧ t.mem = s.mem ∧ t.th = s.th) ∧
    (∀ dst src len, s.copies = [] → s.copyBad p dst src len = false → len ≠ 0 →
      Accepts (exec (.copyCommand q done dst src len) s) q fun t => ∃ c : FrontCopy, t.copies = [c] ∧ c.queue = q ∧ c.part = p ∧
        c.done = done ∧ c.left = len ∧ t.mem = s.mem ∧ t.th = s.th) ∧
    (∀ c sp dp, s.copies = [c] → c.queue = q → 64 < c.left.toNat → s.Quiet → s.Canonical →
      let at_ := s.partAgent c.part
      resolve s at_ .engineRead 64 c.src = .ok sp → dataError s sp c.src 64 = none → sp.Ordinary (s.partOf c.part) 8 →
      resolve s at_ .engineWrite 64 c.dst = .ok dp → s.heldByOther none dp.key 64 = none → s.Keyed sp 64 → s.Keyed dp 64 →
      ∃ t, exec (.copyCommand q c.done c.dst c.src c.left) s = .next t ∧ t.th = s.th ∧
        t.copies = [{ c with dst := c.dst + 64, src := c.src + 64, left := c.left - 64 }] ∧
        ∀ k, t.mem.read k = if dp.key ≤ k ∧ k < dp.key + 64 then s.mem.read (sp.key + (k - dp.key)) else s.mem.read k) ∧
    (∀ addr v pl, resolve s ag .stf 8 addr = .ok pl → pl.special = .none → s.waiters = [] → s.held = [] → s.Quiet → s.Canonical →
      s.Keyed pl 8 → Accepts (exec (.signal q done addr v) s) q fun t =>
        done = 0 → Stored s t pl.key 8 v ∧ BitIs s t pl.key true ∧ t.th = s.th) ∧
    (∀ addr pl, resolve s ag .feRead 8 addr = .ok pl →
      (s.isFull pl.key = true → s.heldByOther none pl.key 8 = none →
        Accepts (exec (.waitCommand q done addr) s) q fun t => done = 0 → t.mem = s.mem ∧ t.th = s.th) ∧
      (s.isFull pl.key = false → ∃ t, exec (.waitCommand q done addr) s = .next t ∧ t.mem = s.mem ∧ t.th = s.th ∧
        (t.queueOf q).busy = some (.waitCommand q done addr)))

/-- Command queues (18 R286 to R288): EN rising starts the queue with CONS and PROD 0; a NOTIFY sets PROD, or OVF when it announces too many records;
a record whose SEQ is right becomes the queue's command, and one whose SEQ is wrong is read again, up to sixteen times, after which
the queue is STALE and raises its interrupt; clearing STALE lets it fetch again. -/
def Obligations.CommandQueues : Prop :=
  ∀ (s : State) (q : BitVec 12),
    let x := s.queueOf q
    let becomes (i : Instr) (y : CmdQueue) : Prop :=
      ∃ t, exec i s = .next t ∧ t.queueOf q = y ∧ (∀ n, n ≠ q → t.queueOf n = s.queueOf n) ∧ t = { s with queues := t.queues }
    (∀ v, x.en = false → v.getLsbD 63 = true →
      ∃ y, becomes (.queueEnable q v) y ∧ y.en = true ∧ y.cons = 0 ∧ y.prod = 0 ∧ y.busy = none ∧ y.size = 2 ^ (v.toNat % 32) ∧
        y.part = v.extractLsb' 48 6) ∧
    (∀ prod, (prod - x.cons).toNat ≤ x.size → becomes (.notifyWrite q prod) { x with prod := prod }) ∧
    (∀ prod, x.size < (prod - x.cons).toNat →
      becomes (.notifyWrite q prod) { x with word1 := x.word1 ||| BitVec.ofNat 64 (2 ^ 59) }) ∧
    (x.stale = true → ∃ y, becomes (.queueStaleClear q) y ∧ y.stale = false ∧ y.refetch = 0 ∧ y.en = x.en ∧ y.cons = x.cons ∧
      y.prod = x.prod ∧ y.size = x.size ∧ y.part = x.part) ∧
    (∀ i, s.mayFetch x = true → x.refetch = 0 → x.seqOk (s.commandRecord x) = true → s.commandOf q (s.commandRecord x) = some i →
      becomes (.commandFetch q) { x with refetch := 0, fetched := true, sent := false, busy := some i }) ∧
    (s.mayFetch x = true → x.refetch = 0 → x.seqOk (s.commandRecord x) = false →
      becomes (.commandFetch q) { x with refetch := 1, refetchAt := s.cycle }) ∧
    (s.mayFetch x = true → x.refetch ≠ 0 → x.refetchAt + 2000 ≤ s.cycle → x.seqOk (s.commandRecord x) = false →
      (x.refetch < 16 → becomes (.commandRecordRefetch q) { x with refetch := x.refetch + 1, refetchAt := s.cycle }) ∧
      (16 ≤ x.refetch → x.iport = false ∨ bits s.modl.startStatus 3 0 ≠ 15 → ∃ t, exec (.commandRecordRefetch q) s = .next t ∧ (t.queueOf q).stale = true ∧ (t.queueOf q).refetch = 0 ∧
        t.modl.out = s.modl.out ++ [.interrupt x.iport false] ∧ t.mem = s.mem ∧ t.th = s.th))

/-- PARTITION and TEARDOWN (18 R289 to R291, R298; 05 R81): while a leader has the lease, a created partition has the rectangle, the window, the limits and the trap vector of its descriptor,
and its supervisor thread starts in slot 0 of its first core with w1 set; a resized one has its new size; set limits changes the watchdog limit
and the levelling interval alone; a partition torn down exists no more and has no thread. -/
def Obligations.PartitionCommands : Prop :=
  ∀ (s : State) (q : BitVec 12) (done : Word) (p : BitVec 6) (desc : Word),
    let ws := s.hostWords desc
    (∀ n, s.Takes q true none → s.leaseOver = false → createBad ws = false → s.freeNumber = some n → s.onGrid (s.newPartition n ws) = true →
      s.allFree ((s.newPartition n ws).logical.map fun yx => ((s.newPartition n ws).target yx.1 yx.2).cid) = true →
      Accepts (exec (.partitionCreate q done desc) s) q fun t => done = 0 →
        let y := t.partOf n
        let h := t.thread (mkTid (y.physical 0 0) 0)
        y.live = true ∧ y.state = 0 ∧ y.hm1 = descHM1 ws ∧ y.wm1 = descWM1 ws ∧ y.oy = descOY ws ∧ y.ox = descOX ws ∧
        (∀ i, i < 64 → y.sbmwin.getLsbD i =
          if 48 ≤ i ∨ (16 ≤ i ∧ i ≤ 27) ∨ i ≤ 11 then (recWord ws 1).getLsbD i else false) ∧
        y.wdLimit = recWord ws 3 ∧ y.level = (recWord ws 4).setWidth 32 ∧ y.tvec = recWord ws 7 ∧ h.active = true ∧ h.part = n ∧ h.pc = recWord ws 5 ∧
        h.rd 1 = recWord ws 6 ∧ bits h.tstat 1 0 = 1) ∧
    (s.Takes q true (some p) → s.leaseOver = false → (s.partOf p).live = true → descBad 1 ws = false → evenSize (descHM1 ws) (descWM1 ws) = true →
      (∃ u, s.resized (s.partOf p) (descHM1 ws) (descWM1 ws) = some u) →
      Accepts (exec (.partitionResize q done p desc) s) q fun t => done = 0 →
        (t.partOf p).hm1 = descHM1 ws ∧ (t.partOf p).wm1 = descWM1 ws ∧ (t.partOf p).oy = (s.partOf p).oy ∧
        (t.partOf p).ox = (s.partOf p).ox ∧ t.mem = s.mem ∧ t.th = s.th) ∧
    (s.Takes q true (some p) → s.leaseOver = false → (s.partOf p).live = true → descBad 2 ws = false →
      Accepts (exec (.partitionSetLimits q done p desc) s) q fun t => done = 0 →
        t.partOf p = { s.partOf p with wdLimit := recWord ws 3, level := (recWord ws 4).setWidth 32 } ∧ t.mem = s.mem ∧ t.th = s.th) ∧
    (s.started = true → (s.queueOf q).busy = none → s.commandBad q true (some p) true = false → (s.partOf p).live = true →
      s.launches = [] → s.axes = [] → s.held = [] → (∀ y ∈ s.queues, y.part = p → ∀ n d r, y.busy ≠ some (.launchCommand n d r)) →
      Accepts (exec (.teardown q done p) s) q fun t => done = 0 →
        (t.partOf p).live = false ∧ (∀ x ∈ t.threads, x.part = p → x.active = false) ∧ t.mem = s.mem)

/-- PREEMPT, GO and STOP (02 R19; 10 R168, R170, R171, R173; 18 R292, R298): once its cores have drained, vacating exchanges their memory with their shadow slices
and frees them; a return gives vacated cores back and exchanges again; a switch out leaves the partition out, its memory in the slices, and a switch in
brings it back, running again; a notice raises source 1 first; GO starts a halted partition and STOP halts a running one.
The memory is stated for a save area outside the local memories, in which the contexts are written. The model's choices: a switch in leaves the
partition RUNNING whatever it was (log entry 29), and a STOP halts at once (log entry 69). -/
def Obligations.Preemption : Prop :=
  ∀ (s : State) (q : BitVec 12) (done : Word) (p : BitVec 6) (arg0 rect save : Word),
    let x := s.partOf p
    let ag := s.partAgent (s.queueOf q).part
    let apart : Prop := s.Quiet ∧ s.Canonical ∧ ∀ k, k < 8193 * saveStride → addrSpace (save + BitVec.ofNat 64 k) ≠ 3
    let exchanged (t : State) (c : Cid) : Prop := ∀ k, k < localBytes →
      t.mem.read (shadowKey c k) = s.mem.read (locKey c k) ∧ t.mem.read (locKey c k) = s.mem.read (shadowKey c k)
    (s.Takes q true (some p) → s.leaseOver = false → x.live = true → x.state ≠ 2 →
      (∀ cs, rectBad x rect = false → s.runningCores x (rectCores rect) = some cs → arg0 = 0x100 →
        s.saveFaults ag .engineWrite save (rectCores rect) = false →
        (s.stopCores (cs.map (·.2.2))).drained (cs.map (·.2.2)) = true → (∀ c ∈ cs, s.coreThreads c.2.2 = []) →
        Accepts (exec (.preemptVacate q done p arg0 rect save) s) q fun t => done = 0 →
          (t.partOf p).save.area = save ∧
          ∀ c ∈ cs, (t.partOf p).target c.1 c.2.1 = .shadow c.2.2 ∧ (t.coreOf c.2.2).owner = none ∧
            (t.coreOf c.2.2).shadowHolds = some p ∧ (apart → (cs.map (·.2.2)).Nodup → exchanged t c.2.2)) ∧
      (∀ cs, rectBad x rect = false → s.runningCores x (rectCores rect) = some cs → arg0 = 0 → s.Quiet → s.th.active = true →
        s.saveFaults ag .engineWrite save (rectCores rect) = false →
        s.th.part = p → s.th.cid ∈ cs.map (·.2.2) →
        ∃ t, exec (.preemptVacate q done p arg0 rect save) s = .next t ∧ t.th.pipe.irq.getLsbD 1 = true ∧ t.th.pc = s.th.pc ∧
          (t.queueOf q).busy = some (.preemptVacate q done p arg0 rect save) ∧ (t.queueOf q).sentAt = s.cycle ∧ t.mem = s.mem) ∧
      (∀ cs, rectBad x rect = false → s.vacatedCores x (rectCores rect) = some cs → s.allFree (cs.map (·.2.2)) = true →
        s.saveFaults ag .engineRead save (rectCores rect) = false →
        s.firstRestoreError (fun c => shadowKey c 0) (cs.map (·.2.2)) = none → x.save.threads = [] →
        (∀ y ∈ s.threads, y.pipe.park ≠ some .displaced) →
        Accepts (exec (.preemptReturn q done p rect save) s) q fun t => done = 0 →
          ∀ c ∈ cs, (t.partOf p).running c.1 c.2.1 = some c.2.2 ∧ (t.coreOf c.2.2).owner = some p ∧
            (apart → (cs.map (·.2.2)).Nodup → exchanged t c.2.2)) ∧
      (arg0 = 0x101 → s.switchFaults ag .engineWrite save x ((s.coresOf p).map s.coreOf) = false →
        (let u := s.gangStop p; u.drained (u.coresOf p) = true) →
        Accepts (exec (.preemptSwitchOut q done p arg0 save) s) q fun t => done = 0 →
          (t.partOf p).state = 2 ∧ (t.partOf p).save.area = save ∧ (apart → (s.coresOf p).Nodup →
            ∀ c ∈ s.coresOf p, (s.coreOf c).shadowHolds = none → x.onSlice c = false → exchanged t c))) ∧
    (s.Takes q true (some p) → s.leaseOver = false → x.live = true → x.state = 2 →
      (∀ c ∈ x.save.outCores.map (·.cid), (s.coreOf c).owner = none ∧
        ((s.coreOf c).shadowHolds = none ∨ (s.coreOf c).shadowHolds = some p)) →
      s.switchFaults ag .engineRead save x x.save.outCores = false →
      s.firstRestoreError (fun c => shadowKey c 0)
        ((x.save.outCores.map (·.cid)).filter fun c => (s.coreOf c).shadowHolds == some p && !x.onSlice c) = none →
      Accepts (exec (.preemptSwitchIn q done p save) s) q fun t => done = 0 →
        (t.partOf p).state = 0 ∧ (t.partOf p).save.outThreads = [] ∧ (t.partOf p).save.outCores = [] ∧
        (apart → x.save.outThreads = [] → (x.save.outCores.map (·.cid)).Nodup → ∀ c ∈ x.save.outCores.map (·.cid),
          (s.coreOf c).shadowHolds = some p → x.onSlice c = false → exchanged t c)) ∧
    (∃ t, exec (.go p) s = .next t ∧ (t.partOf p).state = (if x.state = 1 then 0 else x.state) ∧ t.th = s.th ∧ t.mem = s.mem) ∧
    (x.live = true → ∃ t, exec (.stop p) s = .next t ∧ (t.partOf p).state = (if x.state = 0 then 1 else x.state) ∧
      (s.th.pipe.pend = [] ∨ s.th.part ≠ p → t.th = s.th) ∧ t.mem = s.mem)

/-- The host's registers and its window on HBM (10 R162, R174; 06 R98, R102; 18 R284, R285, R292 to R295): INTR raises source 0; ERHEAD, the axis descriptors and
the trace and log enables take what is written, the axis descriptors only while the axis is out of use; unlisted offsets take
nothing; a BAR2 write stores its bytes in HBM and a BAR2 read gives them. That a ring or a log which is enabled starts with no entries is the model's choice (log
entries 53, 82). -/
def Obligations.HostRegisters : Prop :=
  ∀ s : State,
    (∀ p h, s.Focused → s.Quiet → s.byHandle p h = some s.th →
      exec (.intr p h) s = .next { s with th := { s.th with pipe := { s.th.pipe with irq := s.th.pipe.irq ||| 1 } } }) ∧
    (∀ p v, ∃ t, exec (.erhead p v) s = .next t ∧ t.partOf p = { s.partOf p with erhead := v } ∧ t.mem = s.mem ∧ t.th = s.th) ∧
    (∀ n v, (s.descriptorOpen (s.axisOf n) = false → exec (.axisDescriptorWord0Write n v) s = .next s) ∧
      (s.descriptorOpen (s.axisOf n) = true → ∃ t w, exec (.axisDescriptorWord0Write n v) s = .next t ∧
        t.axisOf n = { s.axisOf n with word0 := w, published := 0 } ∧ (∀ i, i < 64 →
          w.getLsbD i = if i = 63 ∨ (16 ≤ i ∧ i ≤ 20) ∨ i ≤ 5 then v.getLsbD i else false) ∧ t.mem = s.mem ∧ t.th = s.th)) ∧
    (∀ n v, (n.toNat < 64 → exec (.axisTokenRingHead n v) s = .next s) ∧
      (64 ≤ n.toNat → ∃ t, exec (.axisTokenRingHead n v) s = .next t ∧ t.axisOf n = { s.axisOf n with head := v } ∧ t.mem = s.mem)) ∧
    (∀ c, (∃ t, exec (.traceRingEnable c) s = .next t ∧ (t.coreOf c).trace.enabled = true ∧ t.mem = s.mem ∧ t.th = s.th ∧
        ((s.coreOf c).trace.enabled = false → (t.coreOf c).trace.seq = 0 ∧ (t.coreOf c).trace.entries = [])) ∧
      (∃ t, exec (.receiveLogEnable c) s = .next t ∧ (t.coreOf c).log.enabled = true ∧ t.mem = s.mem ∧ t.th = s.th ∧
        ((s.coreOf c).log.enabled = false → (t.coreOf c).log.records = 0 ∧ (t.coreOf c).log.cyc = 0))) ∧
    (∀ off v, (off.toNat % 8 ≠ 0 ∨ off.toNat < 0x020000 ∧ off.toNat ≠ 0x10 ∨ 0x201000 ≤ off.toNat → exec (.registerWrite off v) s = .next s) ∧
      (off.toNat = 0x10 → exec (.registerWrite off v) s =
        .next { s with modl := { s.modl with dbgsel := BitVec.ofNat 64 (v.toNat % 2 ^ 13) } }) ∧
      (∀ p : BitVec 6, off.toNat = 0x040030 + 1024 * p.toNat →
        ∃ t, exec (.registerWrite off v) s = .next t ∧ t.partOf p = { s.partOf p with erbase := v } ∧ t.mem = s.mem)) ∧
    (∀ (off : BitVec 41) (sz : BitVec 2) (v : Word), s.bar2Open off.toNat (2 ^ sz.toNat) = true →
      s.Keyed (hbmPlace off.toNat) (2 ^ sz.toNat) →
      (s.Canonical → s.heldByOther none (hbmKey off.toNat) (2 ^ sz.toNat) = none →
        ∃ t, exec (.hostBar2Write off sz v) s = .next t ∧ Stored s t (hbmKey off.toNat) (2 ^ sz.toNat) v ∧ t.th = s.th) ∧
      (s.poisonIn (hbmKey off.toNat) (2 ^ sz.toNat) = none →
        exec (.hostBar2Read off sz) s = .next { s with modl := { s.modl with
          out := s.modl.out ++ [.hostRead (BitVec.ofNat 64 (s.mem.readN (hbmKey off.toNat) (2 ^ sz.toNat)))] } }))

/-! ### What the machine's own units do -/

/-- The dispatcher and the energy refill (05 R76 to R79; 04 R64): the launch served next populates the slot chosen with its pc, its work identifier and
w1 to w4 from its record; a launch without a population for 2,000,000 cycles is marked as aged; a launch whose threads have ended
leaves with 1 stored in its completion word; a refill gives every active slot of the core its share of EALLOW. -/
def Obligations.Dispatching : Prop :=
  (∀ (s : State) (p : BitVec 6) (l : Launch) (yx : BitVec 7 × BitVec 6) (c : Cid) (tid : Tid),
    (s.endOpenings p).nextLaunch p = some (l, yx) →
    s.offers (s.partOf l.part) yx.1 yx.2 = some c → s.freeSlot c = some tid →
    ∃ t, exec (.slotPopulation p) s = .next t ∧
      let x := t.thread tid
      x.active = true ∧ x.part = l.part ∧ x.pc = recWord l.record 0 ∧ x.ident.wid = l.next ∧ x.ident.widw = recWord l.record 2 ∧
      x.rd 1 = recWord l.record 4 ∧ x.rd 2 = recWord l.record 5 ∧ x.rd 3 = recWord l.record 6 ∧ x.rd 4 = recWord l.record 7 ∧
      (x.ident.ly, x.ident.lx) = yx ∧ t.mem = s.mem ∧
      (t.launches.map fun k => { k with opening := none }) = s.launches.map fun k => { (if k.id = l.id
        then { l with next := l.next + 1, lastPop := s.cycle, aged := false } else k) with opening := none }) ∧
  (∀ (s : State) (id : Half), exec (.launchAging id) s = .next { s with launches := s.launches.map fun l =>
    if l.id = id ∧ l.aged = false ∧ l.next.toNat < (recWord l.record 3).toNat ∧ l.lastPop + 2000000 ≤ s.cycle
    then { l with aged := true } else l }) ∧
  (∀ (s : State) (l : Launch) (pl : Place), s.launches = [l] → s.launchDone l = true → s.waiters = [] → s.held = [] → s.Quiet →
    s.Canonical → resolve s (s.partAgent l.part) .stf 8 (recWord l.record 8) = .ok pl → pl.special = .none → s.Keyed pl 8 →
    ∃ t, exec (.launchCompletion l.id) s = .next t ∧ t.launches = [] ∧ Stored s t pl.key 8 1 ∧ BitIs s t pl.key true ∧ t.th = s.th) ∧
  (∀ s : State, s.Focused → s.th.active = true → s.refillDue s.core.cid = true →
    ∃ t, exec (.energyRefill s.core.cid) s = .next t ∧ t.th.pipe.vecIssued = false ∧ (∀ e, t.rd e = s.rd e) ∧ t.mem = s.mem ∧
      t.th.pipe.ebud = BitVec.ofNat 64 (s.core.eallow.toNat % 2 ^ 32 / (s.coreThreads s.core.cid).length))

/-- Events of a slot (04 R56, R57, R69; 05 R89; 06 R92, R97; 03 R47): the end of a YIELD, the selection of a slot, the arrival of a result in its register, the
acknowledgement of a store and of posted stores, the wake of a thread that waits in issue, and the sending again of a store that
a full list refused. That all of a thread's posted stores complete at once is the model's choice (log entry 59).
Timeouts and asynchronous causes (03 R50; 10 R160, R164, R176; 15 R248): after 65,536 cycles of a hold the cause 0x0C is pending in its holder; a pending
copy fault is taken as a trap at a boundary; the first expiry of the watchdog gives each active thread of the partition the cause 0x14, and a second
fails the partition with cause 4; 65,536 cycles parked for stack room are trap 0x0D. -/
def Obligations.SlotEventsAndTimeouts : Prop :=
  (∀ s : State, s.Focused →
     let pipe (p : Pipe) : Result := .next { s with th := { s.th with pipe := p } }
     (s.th.pipe.yieldUntil ≤ s.cycle → exec (.yieldExpiry s.th.tid) s = pipe { s.th.pipe with yieldUntil := 0 }) ∧
     (s.nextSlot s.core.cid = some s.th.tid → exec (.barrelIssue s.core.cid) s = .next { s with
       issueNow := true
       core := { s.core with last := s.th.slot, issued := s.core.issued.set s.th.slot.toNat (some s.cycle) (s.th.slot.isLt) } }) ∧
     (∀ (r : Reg) (n u : Nat) (pc i : Word) (x : Vec), r ≠ 0 → s.th.pipe.pend = [⟨wReg r, n, u, pc, .value x, i⟩] →
       ∃ t, exec (.resultWriteback s.th.tid (wReg r)) s = .next t ∧ t.rd r = x.setWidth 64 ∧ (∀ e, e ≠ r → t.rd e = s.rd e) ∧
         t.th.pc = s.th.pc ∧ t.mem = s.mem ∧ ∀ p ∈ t.th.pipe.pend, p.st = .arrived ∧ 0 < p.left) ∧
     exec (.storeAcknowledge s.th.tid) s = pipe { s.th.pipe with plainOut := false } ∧
     exec (.postedStoreCompletion s.th.tid) s = pipe { s.th.pipe with posted := 0, peerPosts := [] } ∧
     (s.th.active = true → s.th.pipe.park = some .issue → exec (.parkedThreadWake s.th.tid) s = pipe { s.th.pipe with park := none }) ∧
     (∀ (w : Waiter) (k : BitVec 4) (z : BitVec 2) (n : Nat), s.waiters = [w] → w.owner = some s.th.tid → w.op = .store k z → k ≠ 6 →
       w.retryAt = some n → n ≤ s.cycle → w.record = none → s.held = [] → s.Quiet → s.Canonical → w.pl.special = .none →
       s.Keyed w.pl (2 ^ z.toNat) →
       ∃ t, exec (.waitListResend s.th.tid) s = .next t ∧ Stored s t w.place (2 ^ z.toNat) (w.data.setWidth 64) ∧ t.waiters = [] ∧
         t.th = s.th)) ∧
  (∀ s : State, s.Focused →
     (∀ h, s.held = [h] → h.holder = .thread s.th.tid → h.timedOut = false → h.since + 65536 ≤ s.cycle →
       exec (.holdTimeout s.th.tid) s = .next { s with
         held := [{ h with timedOut := true }]
         th := { s.th with pipe := { s.th.pipe with async := s.th.pipe.async ++ [⟨0x0C, 0, s.th.holdAddr⟩] } } }) ∧
     (∀ c : Cause, s.boundary s.th = true → s.Settled → s.th.st tSP = false → s.th.pipe.trapDue = none → s.th.pipe.async = [c] →
       c.code = 0x0B → s.outOfBudget s.th s.th = false → Traps (exec (.asyncTrapEntry s.th.tid) s) { s with th := { s.th with pipe := { s.th.pipe with async := [] } } } c) ∧
     (s.watchdogDue s.part = true → s.part.wdOnce = false → s.th.active = true →
       ∃ t, exec (.watchdogExpiry s.part.num) s = .next t ∧ t.th.pipe.async = s.th.pipe.async ++ [⟨0x14, 0, 0⟩] ∧
         t.others = s.others.map (fun x => if x.active = true ∧ x.part = s.part.num
           then { x with pipe := { x.pipe with async := x.pipe.async ++ [⟨0x14, 0, 0⟩] } } else x) ∧
         t.part.wdOnce = true ∧ t.part.state = s.part.state ∧ (∀ e, t.rd e = s.rd e) ∧ t.th.pc = s.th.pc ∧ t.mem = s.mem) ∧
     (s.watchdogDue s.part = true → s.part.wdOnce = true → s.Quiet →
       ∃ t, exec (.watchdogExpiry s.part.num) s = .next t ∧ t.part.state = 3 ∧ t.part.cause = 4 ∧ t.mem = s.mem ∧
         (s.th.pipe.pend = [] → t.th = { s.th with pipe := { s.th.pipe with async := s.th.pipe.async.filter (·.code ≠ 0x0B) } })) ∧
     (s.stackDue s.th = true → s.Settled → s.th.st tSP = false →
       Traps (exec (.rewindStackFullTimeout s.th.tid) s) s ⟨0x0D, 0, s.th.rw.rstk⟩))

/-- What travels between cores and the caches of translations (03 R34, R42; 04 R67; 05 R88): a walk installs its leaf, and a fill the map entry; a thread that moved by MIG
goes on in a free slot of its target with status 0, and its home slot is freed, or comes back with status 1; levelled entries leave
a list and join their target's. That a thread comes back from a target under test, stopped, or not of its partition is the model's reading (log entry 52), as is what
travels of a move (log entry 33). -/
def Obligations.Travel : Prop :=
  ∀ s : State, s.Focused → s.Quiet →
    (∀ va leaf level, addrSpace va = 2 → addrMbz va = true → translate s s.th.cid s.part va = .ok (leaf, level) →
      ∃ t, exec (.tlbMissWalk s.th.tid va) s = .next t ∧ t.mem = s.mem ∧ t.th = s.th ∧
        t.core.tlb.head? = some ⟨s.part.asid, va.extractLsb' 12 36, leaf, BitVec.ofNat 2 level⟩ ∧ t.core.tlb.length ≤ 64) ∧
    (∀ k, ∃ t, exec (.coreMapMissFill s.core.cid k) s = .next t ∧ t.core.mapCache.head? = some k ∧ t.core.mapCache.length ≤ 32 ∧
      t.mem = s.mem ∧ t.th = s.th) ∧
    (∀ m d, s.moves = [m] → m.access = none → m.statusReg = some d → m.arrived = none → m.returned = false →
      s.moveWaits m = false →
      let open_ : Prop := (s.coreOf m.target).testing = none ∧ (s.coreOf m.target).stopped = false ∧
        (s.coreOf m.target).owner = some m.thread.part
      (¬open_ ∨ s.freeSlot m.target = none → exec (.roamMigrationArrival 0) s =
        .next { s with moves := [{ m with returned := true, sent := s.stamp }], nextId := s.nextId + 1 }) ∧
      (∀ slot, open_ → s.freeSlot m.target = some slot →
        ∃ t, exec (.roamMigrationArrival 0) s = .next t ∧ t.moves = [{ m with arrived := some slot }] ∧ t.mem = s.mem ∧
          (t.thread slot).active = true ∧ (d ≠ 0 → (t.thread slot).rd d = 0) ∧
          (∀ e, e ≠ d → (t.thread slot).rd e = m.thread.rd e) ∧ (t.thread slot).part = m.thread.part)) ∧
    (∀ m slot, s.moves = [m] → m.arrived = some slot → ∃ t, exec (.moveConfirmation 0) s = .next t ∧ t.moves = [] ∧ t.mem = s.mem ∧
      (t.thread m.thread.tid).active = false) ∧
    (∀ m d, s.moves = [m] → m.arrived = none → m.returned = true → m.access = none → m.statusReg = some d → m.thread.tid = s.th.tid →
      s.moveWaits m = false →
      ∃ t, exec (.moveConfirmation 0) s = .next t ∧ t.moves = [] ∧ t.mem = s.mem ∧ (d ≠ 0 → t.rd d = 1) ∧
        (∀ e, e ≠ d → t.rd e = s.rd e) ∧ t.th.pipe.park = none) ∧
    (∀ p c x k, s.levelDue (s.partOf p) = true → s.levelSends (s.partOf p) = [(c, x, k)] →
      ∃ t, exec (.levellingInterval p) s = .next t ∧ (t.partOf p).levelAt = s.cycle ∧ t.mem = s.mem ∧
        (t.listOf p c).wlCount = (s.listOf p c).wlCount - k ∧
        t.transits = s.transits ++ [⟨p, x, c, s.oldest p c k, false, s.stamp⟩]) ∧
    (∀ x e, s.transits = [x] → x.entries = [e] → s.transitWaits x = false → (s.listOf x.part x.dest).wlRoom = true →
      (∀ y ∈ s.threads, y.isWaitingWork = false) → s.Canonical →
      let c := s.listOf x.part x.dest
      let k := (s.listPlace x.part x.dest (c.wlSlot c.wlCount)).key
      ∃ t, exec (.levellingArrival 0) s = .next t ∧ t.transits = [] ∧ (t.listOf x.part x.dest).wlCount = c.wlCount + 1 ∧ t.th = s.th ∧
        ∀ j, t.mem.read j = if k ≤ j ∧ j < k + 8 then byteOf e.1 (j - k)
          else if k + 8 ≤ j ∧ j < k + 16 then byteOf e.2 (j - (k + 8)) else s.mem.read j)

/-- Messages on their way, while their partition is not switched out (15 R237, R238, R249; 10 R171): a message that fits its receiver's ring is written there with its VT and state UNPROC and accepted; one
without a receiver is discarded and accepted; an anti-message makes its unprocessed positive VOID; an accepted message leaves
the retry buffer; a refused one is on its way again after 256 cycles. -/
def Obligations.MessageEvents : Prop :=
  ∀ (s : State) (m : Message), s.messages = [m] → s.Focused → s.Quiet → s.away m.part = false →
    let accepted : List Message := [{ m with st := .accepted }]
    let first : Prop := s.pathBusy m.src (tidCore m.dest) m.sent = false
    (first → m.anti = false → m.st = .flight → s.receiver m = none → s.savedReceiver m = false →
      ∃ t, exec (.messageArrival 0) s = .next t ∧ t.messages = accepted ∧ t.mem = s.mem ∧ t.th = s.th ∧
        (t.coreOf (tidCore m.dest)).discarded = (s.coreOf (tidCore m.dest)).discarded + 1) ∧
    (first → m.anti = false → m.st = .flight → s.receiver m = some s.th → s.th.bound = false → s.th.ring.ok = true → s.Canonical →
      let need := slotBytes m.payload.length
      let tail := s.th.ring.tail
      tail + need ≤ s.th.ring.base + s.th.ring.size → need + s.th.ring.size / 8 ≤ s.th.ring.size - s.th.ring.used →
      ∃ t, exec (.messageArrival 0) s = .next t ∧ t.messages = accepted ∧ t.core.mrecv = s.core.mrecv + 1 ∧
        t.th.ring.used = (s.freeSlots s.th.tid).th.ring.used + need ∧ (∀ e, t.rd e = s.rd e) ∧ t.th.pc = s.th.pc ∧
        t.mem.word (s.ownKey s.th tail) = m.vt ∧ hdrState (t.mem.word (s.ownKey s.th tail + 8)) = 0) ∧
    (∀ x, first → m.anti = true → m.st = .flight → s.receiver m = some s.th → s.th.bound = true → s.positive s.th m = some x →
      hdrState x.2.2 = 0 → s.Canonical →
      ∃ t, exec (.antiMessageArrival 0) s = .next t ∧ t.messages = accepted ∧ (∀ e, t.rd e = s.rd e) ∧ t.th.pc = s.th.pc ∧
        hdrState (t.mem.word (s.ownKey s.th (x.1 + 8))) = 3) ∧
    (first → m.anti = true → m.st = .flight → s.receiver m = none → s.savedReceiver m = false →
      exec (.antiMessageArrival 0) s = .next { s with messages := accepted }) ∧
    (m.st = .accepted → m.srcAxis = none → exec (.messageAcknowledge 0) s = .next { s with messages := [] }) ∧
    (∀ n, m.st = .refused n → n + 256 ≤ s.cycle → exec (.messageResend 0) s = .next { s with messages := [{ m with st := .flight }] })

/-- Horizons, cascades, deferred effects and retirement (15 R234, R252; 16 R267; 17 R272, R274, R280, R281): a round samples the minimum of its axis and its close
raises HZN to it and never lowers it; the next event of a cascade is raised in its owner, or dropped where the entries that it is for have left; the next passed STORE of a
core's commit queue is performed and leaves; a batch of tokens retires, with its count in the host's tail word where one is
published; a drained axis is reset. A partition that is switched out stands still (10 R171). The model's choices: a round samples all cores in one step, exactly (log
entry 11), and an event whose own entries have left is dropped (log entry 55). -/
def Obligations.AxisEvents : Prop :=
  ∀ s : State,
    (∀ p ax, s.roundDue p ax = true → ∃ t r, exec (.horizonRoundStart p ax) s = .next t ∧
      t.partOf p = { s.partOf p with round := some r, roundAt := s.cycle, roundAxis := ax } ∧ r.axis = ax ∧
      r.low = s.reducedMin p ax.toNat ∧ t.mem = s.mem ∧ t.th = s.th) ∧
    (∀ p r, (s.partOf p).round = some r → s.away p = false →
      let low := r.low.getD (BitVec.ofNat 64 (2 ^ 64 - 1))
      let old := (s.partOf p).hzn[r.axis.toNat]'r.axis.isLt
      ∃ t, exec (.horizonRoundClose p r.axis) s = .next t ∧ (t.partOf p).round = none ∧
        (t.partOf p).hzn[r.axis.toNat]'r.axis.isLt = (if old.toNat < low.toNat then low else old) ∧ t.mem = s.mem ∧
        (∀ e, t.rd e = s.rd e) ∧ t.th.pc = s.th.pc) ∧
    (∀ e, s.cascade = [e] → (∀ id ∈ e.after, s.entryLives id = false) →
      ((∀ id ∈ e.own, s.entryLives id = false) → exec (.directoryCascadeEvent 0) s = .next { s with cascade := [] }) ∧
      (∀ id, id ∈ e.own → s.entryLives id = true → s.byHandle e.part e.owner = some s.th → s.th.axisMode ≠ 1 → s.Quiet →
        s.th.rw.event = none →
        exec (.directoryCascadeEvent 0) s = .next { s with cascade := [], th := { s.th with rw := { s.th.rw with event := some e.target } } })) ∧
    (∀ e pl, s.nextEffect s.core = some e → e.kind = 0 → resolve s e.agent .store 8 e.addr = .ok pl → pl.special = .none →
      s.heldByOther (some e.owner) pl.key 8 = none → s.Quiet → s.Canonical → s.effectOut s.core.cid = false →
      (s.coreOf (tidCore e.owner)).scoreboard e.addr 8 true = false → s.Keyed pl 8 →
      ∃ t, exec (.deferredEffectPerform s.core.cid) s = .next t ∧ Stored s t pl.key 8 e.value ∧ t.th = s.th ∧
        ∀ x, x ∈ t.core.commits ↔ x ∈ s.core.commits ∧ x ≠ e) ∧
    (∀ n last, let a := s.axisOf n
      let ts := a.batch a.published a.tokens
      ts.getLast? = some last → (∀ p, a.owner = some p → s.away p = false) →
      ∃ t, exec (.tokenRetirementBatch n) s = .next t ∧ (t.axisOf n).tokens = a.tokens.drop ts.length ∧
        (t.axisOf n).retired = some last.pos ∧ (a.ringSize = 0 → t.mem = s.mem) ∧ (∀ e, t.rd e = s.rd e) ∧
        (s.Canonical → ts = [last] → a.publishes last = true → (t.axisOf n).published = a.published + 1 ∧
          t.mem.word (hostKey a.tailAddr.toNat) = a.published + 1)) ∧
    (∀ n, s.resetDue (s.axisOf n) = true → ∃ t, exec (.frameAxisReset n) s = .next t ∧ t.mem = s.mem ∧ t.th = s.th ∧
      t.axisOf n = { s.axisOf n with window := 0, retired := none, frames := [], hzn := 0, draining := false })

/-- Peer modules, links and replay (10 R175; 18 R296, R297): nothing of a peer arrives before stage 2; a peer's load is answered with the bytes, its
store stores them; a link that goes down is marked so, and without posted stores nothing else changes; a logged interrupt is
delivered again once its cycle has come.
Throttling, in-field tests, spare quads and the lease (02 R29; 10 R177; 18 R298): the dies given are held back for the cycles given; a test marks an idle core and
its end unmarks it, a core that fails being recorded, and it is aborted only for a priority-0 launch; a spare quad replaces the failing one; the leader renews for 10 ms
a lease that is unexpired or that no follower can take over, and only the first follower in ascending die order takes over, and only an expired one. The model's
choices: which follower is first, and the renewal where there is none (log entry 81), the list of records to be replayed (log entry 50), and that nothing of a peer is taken before stage 2 (log entry 49). -/
def Obligations.ModuleUnits : Prop :=
  (∀ s : State,
     (∀ (mm : BitVec 6) (phys : BitVec 41) (sz : BitVec 2) (v : Word),
       let n := 2 ^ sz.toNat
       (s.stage ≠ 2 → ∀ op, exec (.peerRequestArrival mm op phys sz v) s = .next s) ∧
       (s.stage = 2 → phys.toNat < aliasBase → s.poisonIn (hbmKey phys.toNat) n = none → s.Keyed (peerPlace mm phys.toNat .none) n →
         exec (.peerRequestArrival mm 0 phys sz v) s = .next { s with modl := { s.modl with
           out := s.modl.out ++ [.peerReply mm (BitVec.ofNat 64 (s.mem.readN (hbmKey phys.toNat) n))] } }) ∧
       (s.stage = 2 → phys.toNat < aliasBase → s.held = [] → s.Canonical → s.Keyed (peerPlace mm phys.toNat .none) n →
         ∃ t, exec (.peerRequestArrival mm 1 phys sz v) s = .next t ∧ Stored s t (hbmKey phys.toNat) n v ∧ t.th = s.th)) ∧
     (∀ n : BitVec 5, n.toNat < 24 → (∀ x ∈ s.threads, x.pipe.peerPosts = []) → ∃ t, exec (.linkDown n) s = .next t ∧
       t.modl.linkstat = s.modl.linkstat ||| BitVec.ofNat 64 (2 ^ n.toNat) ∧ t.mem = s.mem ∧ t.th = s.th) ∧
     (∀ cyc ws rest, s.Focused → s.core.log.replay = (cyc, ws) :: rest → cyc.toNat ≤ s.core.log.cyc.toNat → bits (recWord ws 0) 31 28 = 8 →
       bits (recWord ws 0) 27 25 = s.th.slot.toNat →
       ∃ t, exec (.replayDelivery s.core.cid) s = .next t ∧ t.core.log.replay = rest ∧ t.mem = s.mem ∧ (∀ e, t.rd e = s.rd e) ∧
         t.th.pipe.irq.getLsbD ((recWord ws 3).toNat % 128) = true)) ∧
  (∀ s : State,
     (∀ dies cycles : BitVec 16, ∃ t, exec (.powerThrottle dies cycles) s = .next t ∧
       (∀ i : Fin 16, t.modl.throttled[i] =
         if dies.getLsbD i then Nat.max s.modl.throttled[i] (s.cycle + cycles.toNat) else s.modl.throttled[i]) ∧
       t = { s with modl := { s.modl with throttled := t.modl.throttled } }) ∧
     (∀ c, (s.coreIdle c = true → (s.coreOf c).testing = none → (s.coreOf c).shadowHolds = none → c ∉ s.modl.failing →
         ∃ t, exec (.inFieldTestStart c) s = .next t ∧ (t.coreOf c).testing = some s.cycle ∧ (∀ e, t.rd e = s.rd e)) ∧
       ((s.coreOf c).testing ≠ none →
         (∃ t, exec (.inFieldTestComplete c true) s = .next t ∧ (t.coreOf c).testing = none ∧ t.modl = s.modl) ∧
         (∃ t, exec (.inFieldTestComplete c false) s = .next t ∧ (t.coreOf c).testing = none ∧ c ∈ t.modl.failing ∧ t.mem = s.mem) ∧
         (s.wantsCore c = true → ∃ t, exec (.inFieldTestAbort c) s = .next t ∧ (t.coreOf c).testing = none ∧ t.modl = s.modl) ∧
         (s.wantsCore c = false → exec (.inFieldTestAbort c) s = .next s)) ∧
       ((s.coreOf c).testing = none → ∀ b, exec (.inFieldTestComplete c b) s = .next s ∧ exec (.inFieldTestAbort c) s = .next s)) ∧
     (∀ bad spare, bad ∈ s.modl.failing → (∀ c ∈ quadOf bad, s.coreIdle c = true ∧ (s.coreOf c).testing = none) →
       (quadOf spare).head? = some spare → spare ∈ s.modl.spares → s.allFree (quadOf spare) = true →
       ∃ t, exec (.quadReplacement bad spare) s = .next t ∧ bad ∉ t.modl.failing ∧ spare ∉ t.modl.spares ∧
         t.modl.replaced = s.modl.replaced ++ (quadOf bad).zip (quadOf spare)) ∧
     (let now := (s.cycle - s.modl.startedAt) / 2
      let expired := bits s.modl.fwlease 63 8 ≤ now
      let lease (die : Nat) : Result := .next { s with modl := { s.modl with
        fwlease := BitVec.ofNat 64 ((now + 10000000) * 2 ^ 8 + die) } }
      (expired → s.firstFollower ≠ none → exec .fwleaseRenew s = .next s) ∧ (¬expired ∨ s.firstFollower = none → exec .fwleaseRenew s = lease (bits s.modl.fwlease 3 0)) ∧
      (∀ die : BitVec 4, (expired → s.firstFollower = some die → exec (.fwleaseTakeover die) s = lease die.toNat) ∧
        (¬expired ∨ s.firstFollower ≠ some die → exec (.fwleaseTakeover die) s = .next s))))

/-- The staged start and management requests (18 R299 to R303): power good and a PLDM reset leave stage 0 with the module's own memories, threads and
partitions as at reset; stage 1 follows stage 0, and stage 2, which clears FAILS, stage 1; a failed start counts in FAILS and the third leads to minimal
mode, which keeps the reason where a reset clears it; a reset after a new image sets FAILS to 0; monitoring gives the links' state beside the rails'; a report measures both images, or is not sent;
a verified compute image waits for the next reset, and a failed verification changes no image. The model's choices: the values of threads, cores and
partitions at reset (log entry 1), and that FAILS and the images are kept through a reset (log entry 48). -/
def Obligations.StagedStart : Prop :=
  ∀ s : State,
    let fails := bits s.modl.startStatus 7 4
    let status (t : State) (stage n reason : Nat) : Prop := bits t.modl.startStatus 3 0 = stage ∧ bits t.modl.startStatus 7 4 = n ∧
      bits t.modl.startStatus 15 8 = reason
    let fresh (t : State) : Prop := t.th = Thread.unpopulated 0 ∧ t.others = [] ∧ t.core = Core.initial 0 ∧ t.cores = [] ∧
      t.part = Partition.absent 0 ∧ t.parts = [] ∧ ∀ k, k < 2 ^ 54 → t.mem.read k = unwritten
    (∃ t, exec .powerGood s = .next t ∧ fresh t ∧ status t 0 fails 0) ∧
    (∃ t, exec .pldmReset s = .next t ∧ fresh t ∧ status t 0 (if s.modl.pendingImage.isSome || s.modl.newImage then 0 else fails) 0 ∧
      t.modl.computeImage = s.modl.pendingImage.getD s.modl.computeImage ∧ t.modl.pendingImage = none) ∧
    (∀ ok : BitVec 16, s.stage = 0 → ∃ t, exec (.stage1Reached ok) s = .next t ∧ t.stage = 1 ∧ bits t.modl.startStatus 7 4 = fails ∧
      bits t.modl.startStatus 31 16 = ok.toNat ∧ t.mem = s.mem ∧ t.th = s.th) ∧
    (s.stage = 1 → ∃ t, exec .stage2Reached s = .next t ∧ t.stage = 2 ∧ bits t.modl.startStatus 7 4 = 0 ∧
      bits t.modl.startStatus 31 16 = bits s.modl.startStatus 31 16 ∧ t.mem = s.mem ∧ t.th = s.th) ∧
    (∀ reason : Byte, s.stage ≤ 1 → ∃ t, exec (.startFailure reason) s = .next t ∧ fresh t ∧
      (fails < 2 → status t 0 (fails + 1) 0) ∧ (2 ≤ fails → status t 15 3 reason.toNat)) ∧
    (s.stage ≤ 1 → s.modl.startedAt + 60000000000 ≤ s.cycle → ∃ t, exec .startTimeout s = .next t ∧ fresh t ∧
      (fails < 2 → status t 0 (fails + 1) 0) ∧ (2 ≤ fails → status t 15 3 5)) ∧
    (∃ v, exec .pldmPlatformMonitoring s = .next { s with freeCtr := s.freeCtr + 1, modl := { s.modl with
      out := s.modl.out ++ [.management 0 v, .management 3 (BitVec.ofNat 64 (s.modl.linkstat.toNat % 2 ^ 24))] } }) ∧
    (exec .spdmAttestation s = .next { s with freeCtr := s.freeCtr + 1 } ∨
      ∃ u v, exec .spdmAttestation s = .next { s with freeCtr := s.freeCtr + 1, modl := { s.modl with
        out := s.modl.out ++ [.management 1 (Config.measurement s.modl.computeImage),
          .management 1 (Config.measurement s.modl.mgmtImage), .management 1 u, .management 1 v] } }) ∧
    (∀ image, exec (.pldmFirmwareUpdate false image true) s = .next { s with modl := { s.modl with
        pendingImage := some image, out := s.modl.out ++ [.management 2 0] } } ∧
      exec (.pldmFirmwareUpdate true image true) s = .next { s with modl := { s.modl with
        mgmtImage := image, newImage := true, out := s.modl.out ++ [.management 2 0] } } ∧
      ∀ b, exec (.pldmFirmwareUpdate b image false) s = .next { s with modl := { s.modl with out := s.modl.out ++ [.management 2 1] } })

/-! ### Reset, steps and encodings -/

/-- What reset leaves (18 R302, R303; 03 R45; 04 R54, R63; 09 R142; 15 R231): stage 0, no partition, no active thread, every word full, EALLOW 131,072 in every core, each
matrix context FP32 without rings, its accumulators zero, HZN 0, and the memories in canonical form. -/
def Obligations.ResetState : Prop :=
  let s := State.reset
  s.stage = 0 ∧ (∀ p, (s.partOf p).live = false ∧ ∀ n, s.axisHorizon p n = 0) ∧ (∀ t, (s.thread t).active = false) ∧
  (∀ k, s.isFull k = true) ∧ (∀ c, (s.coreOf c).eallow = 131072 ∧ (s.coreOf c).mx.cfg = ⟨1, 1, false, false, false⟩ ∧
    (∀ n, ((s.coreOf c).mx.ring n).nslot = 0) ∧ (∀ k, (s.coreOf c).mx.accum k = 0) ∧ (s.coreOf c).mx.mxerr = 0) ∧
  (∀ t, (s.thread t).rd 0 = 0 ∧ (s.thread t).rdm 0 = BitVec.allOnes 64) ∧ s.Canonical

/-- A step runs the decoded instruction (08 R126, R135; 04 R56, R61): where an issue is due and nothing else is taken at the boundary, the word at the pc, or
the frame's word with the pass's strides, is decoded and, for a thread in no gang, the step is exec of it, in the state that has the word in the
instruction cache, which may hold an older word than memory (log entry 8); a word that the decoder refuses takes the illegal-instruction trap. The leader of a
gang of two executes it, and then its follower on its own registers, its core issuing nothing else, and both go on at the leader's pc (a follower's JALR writes its
link and takes the leader's target, 21 R344); that the leader is first, both within one step, is the model's reading (log entry 35). An event of the inbox is executed
first, and the barrel's cycle selects the slot that issues: the model's order (log entry 3). -/
def Obligations.StepRunsDecoded : Prop :=
  (∀ (s : State) (w : Half), s.issueNow = true → s.th.pipe.trapDue = none → s.th.asyncCause = none → s.th.eventDue = none →
    s.th.pipe.held = [] → s.th.exhausted = none → s.th.pipe.park = none → s.th.pipe.fence = none → s.replays s.th.cid = false →
    s.th.gang = none → s.nextWord = .ok w →
    let u := ({ s with issueNow := false } : State).withFetched w
    (∀ i, decode w = .ok i → step s = exec i u) ∧
    (∀ e, decode w = .error e → step s = .next (u.takeTrap ⟨0x01, 0, w.setWidth 64⟩)) ∧
    u.th = s.th ∧ u.mem = s.mem) ∧
  (∀ (s : State) (w : Half) (i : Instr) (f : Tid) (k : BitVec 3), s.issueNow = true → s.th.pipe.trapDue = none → s.th.asyncCause = none →
    s.th.eventDue = none → s.th.pipe.held = [] → s.th.exhausted = none → s.th.pipe.park = none → s.th.pipe.fence = none →
    s.replays s.th.cid = false → s.faultReports = [] → s.th.gang = some (s.th.tid, k) → s.nextWord = .ok w →
    decode w = .ok i → leaderOnly i = false → ((s.gangOf s.th.tid).filter (·.tid != s.th.tid)).map (·.tid) = [f] →
    ∀ a b : State, exec i (({ s with issueNow := false } : State).withFetched w) = .next a → a.th.pipe.park = none → a.th.active = true →
      s.th.trapped a.th = false →
      let v := ((a.focus f).issues).mapTh fun t => { t with pc := s.th.pc }
      (match i with
        | .jalr d r o => followJalr d r o a.th.pc v
        | i => exec i v : Result) = .next b →
      b.th.pipe.park = none → b.th.active = true → v.th.trapped b.th = false →
      step s = .next ((b.mapTh fun t => { t with pc := a.th.pc }).focus s.th.tid)) ∧
  (∀ (s : State) (e : Instr) (rest : List Instr), s.issueNow = false → s.inbox = e :: rest → e.isWord = false →
    step s = exec e { s with inbox := rest }) ∧
  (∀ (s : State) (t : Tid), s.issueNow = false → s.inbox = [] → s.engineTurn = false →
    let u := ({ s with engineTurn := true } : State).tickCycle.sampleAll
    u.nextSlot u.core.cid = some t → step s = step { u.select t with issueNow := true })

/-- Words written out from the tables of the spec decode to the instructions they stand for (08 R129 to R135). -/
def Obligations.DecodeWords : Prop :=
  decode 0x0448C000#32 = .ok (.add 1 2 3) ∧ decode 0x0448D0F0#32 = .ok (.sel 1 2 3 4) ∧ decode 0x051400C0#32 = .ok (.clz 4 5) ∧
  decode 0x08400005#32 = .ok (.addi 1 0 5) ∧ decode 0x3080FFFE#32 = .ok (.bne 2 0 (-2)) ∧
  decode 0x37C00003#32 = .ok (.jal 15 3) ∧ decode 0x383C0000#32 = .ok (.jalr 0 15 0) ∧
  decode 0xF8000002#32 = .ok .tret ∧ decode 0x60000060#32 = .ok .ungang ∧ decode 0x6C000070#32 = .ok .tend ∧
  (∃ e, decode 0x00000000#32 = .error e)

/-- Decoding undoes encoding: every well-formed instruction, with every operand at every value that its encoding admits, is read
back from its word (08 R129 to R135). -/
def Obligations.DecodeEncode : Prop :=
  ∀ i : Instr, i.wellFormed = true → decode (encode i) = .ok i

/-- Every step keeps the memories in canonical form. The form is the model's (equal memories are equal data), not the spec's. -/
def Obligations.StepKeepsCanonical : Prop :=
  ∀ s t : State, s.Canonical → step s = .next t → t.Canonical

/-- Every step goes on: no state and no event ends a run in a fault or a refusal (10 R163: whatever a program does wrong, the spec gives a trap,
a FAILED partition or a status). -/
def Obligations.EveryStepCompletes : Prop :=
  ∀ s : State, s.Safe
end

