-- ==== Sys2Proof/Laws/Dispatch.lean ====
section
/-! SUPPORT. What exec does with each instruction: it is that instruction's meaning. -/
namespace Sys2Proof.Machine

theorem exec_add (d : Reg) (a : Reg) (b : Reg) (s : State) : exec (.add d a b) s = execAdd d a b s := rfl
theorem exec_sub (d : Reg) (a : Reg) (b : Reg) (s : State) : exec (.sub d a b) s = execSub d a b s := rfl
theorem exec_and (d : Reg) (a : Reg) (b : Reg) (s : State) : exec (.and d a b) s = execAnd d a b s := rfl
theorem exec_or (d : Reg) (a : Reg) (b : Reg) (s : State) : exec (.or d a b) s = execOr d a b s := rfl
theorem exec_xor (d : Reg) (a : Reg) (b : Reg) (s : State) : exec (.xor d a b) s = execXor d a b s := rfl
theorem exec_shl (d : Reg) (a : Reg) (b : Reg) (s : State) : exec (.shl d a b) s = execShl d a b s := rfl
theorem exec_shr (d : Reg) (a : Reg) (b : Reg) (s : State) : exec (.shr d a b) s = execShr d a b s := rfl
theorem exec_sra (d : Reg) (a : Reg) (b : Reg) (s : State) : exec (.sra d a b) s = execSra d a b s := rfl
theorem exec_slt (d : Reg) (a : Reg) (b : Reg) (s : State) : exec (.slt d a b) s = execSlt d a b s := rfl
theorem exec_sltu (d : Reg) (a : Reg) (b : Reg) (s : State) : exec (.sltu d a b) s = execSltu d a b s := rfl
theorem exec_min (d : Reg) (a : Reg) (b : Reg) (s : State) : exec (.min d a b) s = execMin d a b s := rfl
theorem exec_max (d : Reg) (a : Reg) (b : Reg) (s : State) : exec (.max d a b) s = execMax d a b s := rfl
theorem exec_clz (d : Reg) (a : Reg) (s : State) : exec (.clz d a) s = execClz d a s := rfl
theorem exec_ctz (d : Reg) (a : Reg) (s : State) : exec (.ctz d a) s = execCtz d a s := rfl
theorem exec_popc (d : Reg) (a : Reg) (s : State) : exec (.popc d a) s = execPopc d a s := rfl
theorem exec_sel (d : Reg) (a : Reg) (b : Reg) (c : Reg) (s : State) : exec (.sel d a b c) s = execSel d a b c s := rfl
theorem exec_addi (d : Reg) (a : Reg) (im : BitVec 18) (s : State) : exec (.addi d a im) s = execAddi d a im s := rfl
theorem exec_andi (d : Reg) (a : Reg) (im : BitVec 18) (s : State) : exec (.andi d a im) s = execAndi d a im s := rfl
theorem exec_ori (d : Reg) (a : Reg) (im : BitVec 18) (s : State) : exec (.ori d a im) s = execOri d a im s := rfl
theorem exec_xori (d : Reg) (a : Reg) (im : BitVec 18) (s : State) : exec (.xori d a im) s = execXori d a im s := rfl
theorem exec_slti (d : Reg) (a : Reg) (im : BitVec 18) (s : State) : exec (.slti d a im) s = execSlti d a im s := rfl
theorem exec_shli (d : Reg) (a : Reg) (sz : BitVec 6) (s : State) : exec (.shli d a sz) s = execShli d a sz s := rfl
theorem exec_shri (d : Reg) (a : Reg) (sz : BitVec 6) (s : State) : exec (.shri d a sz) s = execShri d a sz s := rfl
theorem exec_srai (d : Reg) (a : Reg) (sz : BitVec 6) (s : State) : exec (.srai d a sz) s = execSrai d a sz s := rfl
theorem exec_lui (d : Reg) (im : BitVec 22) (s : State) : exec (.lui d im) s = execLui d im s := rfl
theorem exec_luih (d : Reg) (im : BitVec 22) (s : State) : exec (.luih d im) s = execLuih d im s := rfl
theorem exec_addpc (d : Reg) (im : BitVec 22) (s : State) : exec (.addpc d im) s = execAddpc d im s := rfl
theorem exec_mul (d : Reg) (a : Reg) (b : Reg) (l : Reg) (s : State) : exec (.mul d a b l) s = execMul d a b l s := rfl
theorem exec_div (d : Reg) (a : Reg) (b : Reg) (l : Reg) (s : State) : exec (.div d a b l) s = execDiv d a b l s := rfl
theorem exec_divu (d : Reg) (a : Reg) (b : Reg) (l : Reg) (s : State) : exec (.divu d a b l) s = execDivu d a b l s := rfl
theorem exec_rem (d : Reg) (a : Reg) (b : Reg) (l : Reg) (s : State) : exec (.rem d a b l) s = execRem d a b l s := rfl
theorem exec_remu (d : Reg) (a : Reg) (b : Reg) (l : Reg) (s : State) : exec (.remu d a b l) s = execRemu d a b l s := rfl
theorem exec_beq (a : Reg) (b : Reg) (o : BitVec 15) (s : State) : exec (.beq a b o) s = execBeq a b o s := rfl
theorem exec_bne (a : Reg) (b : Reg) (o : BitVec 15) (s : State) : exec (.bne a b o) s = execBne a b o s := rfl
theorem exec_blt (a : Reg) (b : Reg) (o : BitVec 15) (s : State) : exec (.blt a b o) s = execBlt a b o s := rfl
theorem exec_bge (a : Reg) (b : Reg) (o : BitVec 15) (s : State) : exec (.bge a b o) s = execBge a b o s := rfl
theorem exec_bltu (a : Reg) (b : Reg) (o : BitVec 15) (s : State) : exec (.bltu a b o) s = execBltu a b o s := rfl
theorem exec_bgeu (a : Reg) (b : Reg) (o : BitVec 15) (s : State) : exec (.bgeu a b o) s = execBgeu a b o s := rfl
theorem exec_bany (a : Reg) (b : Reg) (o : BitVec 15) (s : State) : exec (.bany a b o) s = execBany a b o s := rfl
theorem exec_bnone (a : Reg) (b : Reg) (o : BitVec 15) (s : State) : exec (.bnone a b o) s = execBnone a b o s := rfl
theorem exec_jal (d : Reg) (o : BitVec 22) (s : State) : exec (.jal d o) s = execJal d o s := rfl
theorem exec_jalr (d : Reg) (a : Reg) (im : BitVec 18) (s : State) : exec (.jalr d a im) s = execJalr d a im s := rfl
theorem exec_rpt (n : BitVec 8) (l : Reg) (d : Reg) (a : Reg) (b : Reg) (s : State) : exec (.rpt n l d a b) s = execRpt n l d a b s := rfl
theorem exec_ld (d : Reg) (a : Reg) (sz : BitVec 2) (x : BitVec 1) (im : BitVec 10) (l : Reg) (s : State) : exec (.ld d a sz x im l) s = execLd d a sz x im l s := rfl
theorem exec_lds (d : Reg) (a : Reg) (sz : BitVec 2) (x : BitVec 1) (im : BitVec 10) (l : Reg) (s : State) : exec (.lds d a sz x im l) s = execLds d a sz x im l s := rfl
theorem exec_st (d : Reg) (a : Reg) (sz : BitVec 2) (x : BitVec 1) (im : BitVec 10) (s : State) : exec (.st d a sz x im) s = execSt d a sz x im s := rfl
theorem exec_ldf (d : Reg) (a : Reg) (im : BitVec 10) (l : Reg) (s : State) : exec (.ldf d a im l) s = execLdf d a im l s := rfl
theorem exec_ldfe (d : Reg) (a : Reg) (im : BitVec 10) (l : Reg) (s : State) : exec (.ldfe d a im l) s = execLdfe d a im l s := rfl
theorem exec_stf (d : Reg) (a : Reg) (im : BitVec 10) (s : State) : exec (.stf d a im) s = execStf d a im s := rfl
theorem exec_stef (d : Reg) (a : Reg) (im : BitVec 10) (s : State) : exec (.stef d a im) s = execStef d a im s := rfl
theorem exec_fetest (d : Reg) (a : Reg) (im : BitVec 10) (l : Reg) (s : State) : exec (.fetest d a im l) s = execFetest d a im l s := rfl
theorem exec_feset (d : Reg) (a : Reg) (im : BitVec 10) (s : State) : exec (.feset d a im) s = execFeset d a im s := rfl
theorem exec_hold (d : Reg) (a : Reg) (im : BitVec 10) (l : Reg) (s : State) : exec (.hold d a im l) s = execHold d a im l s := rfl
theorem exec_release (d : Reg) (a : Reg) (im : BitVec 10) (s : State) : exec (.release d a im) s = execRelease d a im s := rfl
theorem exec_far (d : Reg) (a : Reg) (o : Reg) (im : BitVec 10) (s : State) : exec (.far d a o im) s = execFar d a o im s := rfl
theorem exec_fenceGroup (s : State) : exec (.fenceGroup) s = execFenceGroup s := rfl
theorem exec_fenceDevice (s : State) : exec (.fenceDevice) s = execFenceDevice s := rfl
theorem exec_fenceSystem (s : State) : exec (.fenceSystem) s = execFenceSystem s := rfl
theorem exec_fenceI (s : State) : exec (.fenceI) s = execFenceI s := rfl
theorem exec_mig (d : Reg) (a : Reg) (s : State) : exec (.mig d a) s = execMig d a s := rfl
theorem exec_wfld (d : Reg) (a : Reg) (c : Reg) (s : State) : exec (.wfld d a c) s = execWfld d a c s := rfl
theorem exec_wfw (d : Reg) (s : State) : exec (.wfw d) s = execWfw d s := rfl
theorem exec_wlpush (d : Reg) (a : Reg) (b : Reg) (s : State) : exec (.wlpush d a b) s = execWlpush d a b s := rfl
theorem exec_wlpop (d : Reg) (a : Reg) (s : State) : exec (.wlpop d a) s = execWlpop d a s := rfl
theorem exec_launch (d : Reg) (a : Reg) (l : Reg) (s : State) : exec (.launch d a l) s = execLaunch d a l s := rfl
theorem exec_gang (d : Reg) (c : Reg) (s : State) : exec (.gang d c) s = execGang d c s := rfl
theorem exec_ungang (s : State) : exec (.ungang) s = execUngang s := rfl
theorem exec_yield (s : State) : exec (.yield) s = execYield s := rfl
theorem exec_mfs (d : Reg) (c : BitVec 12) (s : State) : exec (.mfs d c) s = execMfs d c s := rfl
theorem exec_mts (a : Reg) (c : BitVec 12) (s : State) : exec (.mts a c) s = execMts a c s := rfl
theorem exec_sendv (d : Reg) (a : Reg) (b : Reg) (c : Reg) (s : State) : exec (.sendv d a b c) s = execSendv d a b c s := rfl
theorem exec_recvv (d : Reg) (l : Reg) (s : State) : exec (.recvv d l) s = execRecvv d l s := rfl
theorem exec_mdone (a : Reg) (s : State) : exec (.mdone a) s = execMdone a s := rfl
theorem exec_roll (a : Reg) (s : State) : exec (.roll a) s = execRoll a s := rfl
theorem exec_defer (d : Reg) (a : Reg) (b : Reg) (s : State) : exec (.defer d a b) s = execDefer d a b s := rfl
theorem exec_axbind (a : Reg) (b : Reg) (c : Reg) (s : State) : exec (.axbind a b c) s = execAxbind a b c s := rfl
theorem exec_fopen (d : Reg) (a : Reg) (s : State) : exec (.fopen d a) s = execFopen d a s := rfl
theorem exec_fconf (d : Reg) (a : Reg) (s : State) : exec (.fconf d a) s = execFconf d a s := rfl
theorem exec_funw (d : Reg) (a : Reg) (s : State) : exec (.funw d a) s = execFunw d a s := rfl
theorem exec_tokemit (d : Reg) (a : Reg) (b : Reg) (c : Reg) (s : State) : exec (.tokemit d a b c) s = execTokemit d a b c s := rfl
theorem exec_abop (d : Reg) (a : Reg) (b : Reg) (c : Reg) (s : State) : exec (.abop d a b c) s = execAbop d a b c s := rfl
theorem exec_tbegin (a : Reg) (s : State) : exec (.tbegin a) s = execTbegin a s := rfl
theorem exec_tend (s : State) : exec (.tend) s = execTend s := rfl
theorem exec_vadd (d : Reg) (a : Reg) (b : Reg) (m : BitVec 2) (e : Reg) (r : BitVec 2) (s : State) : exec (.vadd d a b m e r) s = execVadd d a b m e r s := rfl
theorem exec_vsub (d : Reg) (a : Reg) (b : Reg) (m : BitVec 2) (e : Reg) (r : BitVec 2) (s : State) : exec (.vsub d a b m e r) s = execVsub d a b m e r s := rfl
theorem exec_vmul (d : Reg) (a : Reg) (b : Reg) (m : BitVec 2) (e : Reg) (r : BitVec 2) (s : State) : exec (.vmul d a b m e r) s = execVmul d a b m e r s := rfl
theorem exec_vfma (d : Reg) (a : Reg) (b : Reg) (m : BitVec 2) (e : Reg) (r : BitVec 2) (s : State) : exec (.vfma d a b m e r) s = execVfma d a b m e r s := rfl
theorem exec_vmin (d : Reg) (a : Reg) (b : Reg) (m : BitVec 2) (e : Reg) (s : State) : exec (.vmin d a b m e) s = execVmin d a b m e s := rfl
theorem exec_vmax (d : Reg) (a : Reg) (b : Reg) (m : BitVec 2) (e : Reg) (s : State) : exec (.vmax d a b m e) s = execVmax d a b m e s := rfl
theorem exec_vand (d : Reg) (a : Reg) (b : Reg) (m : BitVec 2) (e : Reg) (s : State) : exec (.vand d a b m e) s = execVand d a b m e s := rfl
theorem exec_vor (d : Reg) (a : Reg) (b : Reg) (m : BitVec 2) (e : Reg) (s : State) : exec (.vor d a b m e) s = execVor d a b m e s := rfl
theorem exec_vxor (d : Reg) (a : Reg) (b : Reg) (m : BitVec 2) (e : Reg) (s : State) : exec (.vxor d a b m e) s = execVxor d a b m e s := rfl
theorem exec_vshl (d : Reg) (a : Reg) (b : Reg) (m : BitVec 2) (e : Reg) (s : State) : exec (.vshl d a b m e) s = execVshl d a b m e s := rfl
theorem exec_vshr (d : Reg) (a : Reg) (b : Reg) (m : BitVec 2) (e : Reg) (s : State) : exec (.vshr d a b m e) s = execVshr d a b m e s := rfl
theorem exec_vcmp (d : Reg) (a : Reg) (b : Reg) (c : BitVec 3) (m : BitVec 2) (e : Reg) (s : State) : exec (.vcmp d a b c m e) s = execVcmp d a b c m e s := rfl
theorem exec_vsel (d : Reg) (a : Reg) (m : BitVec 2) (e : Reg) (s : State) : exec (.vsel d a m e) s = execVsel d a m e s := rfl
theorem exec_mand (d : Reg) (a : Reg) (b : Reg) (s : State) : exec (.mand d a b) s = execMand d a b s := rfl
theorem exec_mor (d : Reg) (a : Reg) (b : Reg) (s : State) : exec (.mor d a b) s = execMor d a b s := rfl
theorem exec_mnot (d : Reg) (a : Reg) (s : State) : exec (.mnot d a) s = execMnot d a s := rfl
theorem exec_mfirst (d : Reg) (a : Reg) (b : Reg) (s : State) : exec (.mfirst d a b) s = execMfirst d a b s := rfl
theorem exec_vred (d : Reg) (a : Reg) (o : Reg) (m : BitVec 2) (e : Reg) (r : BitVec 2) (s : State) : exec (.vred d a o m e r) s = execVred d a o m e r s := rfl
theorem exec_vperm (d : Reg) (a : Reg) (b : Reg) (m : BitVec 2) (e : Reg) (s : State) : exec (.vperm d a b m e) s = execVperm d a b m e s := rfl
theorem exec_vbcast (d : Reg) (a : Reg) (m : BitVec 2) (e : Reg) (s : State) : exec (.vbcast d a m e) s = execVbcast d a m e s := rfl
theorem exec_vmovs (d : Reg) (a : Reg) (b : Reg) (e : Reg) (s : State) : exec (.vmovs d a b e) s = execVmovs d a b e s := rfl
theorem exec_viota (d : Reg) (a : Reg) (m : BitVec 2) (e : Reg) (s : State) : exec (.viota d a m e) s = execViota d a m e s := rfl
theorem exec_vexp2 (d : Reg) (a : Reg) (m : BitVec 2) (r : BitVec 2) (s : State) : exec (.vexp2 d a m r) s = execVexp2 d a m r s := rfl
theorem exec_vlog2 (d : Reg) (a : Reg) (m : BitVec 2) (r : BitVec 2) (s : State) : exec (.vlog2 d a m r) s = execVlog2 d a m r s := rfl
theorem exec_vrcp (d : Reg) (a : Reg) (m : BitVec 2) (r : BitVec 2) (s : State) : exec (.vrcp d a m r) s = execVrcp d a m r s := rfl
theorem exec_vrsq (d : Reg) (a : Reg) (m : BitVec 2) (r : BitVec 2) (s : State) : exec (.vrsq d a m r) s = execVrsq d a m r s := rfl
theorem exec_vld (d : Reg) (a : Reg) (im : BitVec 6) (l : Reg) (s : State) : exec (.vld d a im l) s = execVld d a im l s := rfl
theorem exec_vst (d : Reg) (a : Reg) (im : BitVec 6) (s : State) : exec (.vst d a im) s = execVst d a im s := rfl
theorem exec_vlds (d : Reg) (a : Reg) (b : Reg) (im : BitVec 6) (l : Reg) (s : State) : exec (.vlds d a b im l) s = execVlds d a b im l s := rfl
theorem exec_vgat (d : Reg) (a : Reg) (b : Reg) (im : BitVec 6) (l : Reg) (s : State) : exec (.vgat d a b im l) s = execVgat d a b im l s := rfl
theorem exec_vcvt (d : Reg) (a : Reg) (sz : Reg) (m : BitVec 2) (e : Reg) (r : BitVec 2) (s : State) : exec (.vcvt d a sz m e r) s = execVcvt d a sz m e r s := rfl
theorem exec_vqnt (d : Reg) (a : Reg) (b : Reg) (m : BitVec 2) (f : Reg) (s : State) : exec (.vqnt d a b m f) s = execVqnt d a b m f s := rfl
theorem exec_vdqnt (d : Reg) (a : Reg) (b : Reg) (m : BitVec 2) (f : Reg) (r : BitVec 2) (s : State) : exec (.vdqnt d a b m f r) s = execVdqnt d a b m f r s := rfl
theorem exec_vbfly (d : Reg) (a : Reg) (b : Reg) (m : BitVec 2) (s : State) : exec (.vbfly d a b m) s = execVbfly d a b m s := rfl
theorem exec_vtwid (d : Reg) (a : Reg) (b : Reg) (m : BitVec 2) (s : State) : exec (.vtwid d a b m) s = execVtwid d a b m s := rfl
theorem exec_vbound (d : Reg) (a : Reg) (b : Reg) (m : BitVec 2) (e : Reg) (r : BitVec 2) (s : State) : exec (.vbound d a b m e r) s = execVbound d a b m e r s := rfl
theorem exec_vtopk (d : Reg) (a : Reg) (b : Reg) (m : BitVec 2) (e : Reg) (s : State) : exec (.vtopk d a b m e) s = execVtopk d a b m e s := rfl
theorem exec_vgumb (d : Reg) (a : Reg) (m : BitVec 2) (s : State) : exec (.vgumb d a m) s = execVgumb d a m s := rfl
theorem exec_vrng (d : Reg) (a : Reg) (b : Reg) (m : BitVec 2) (e : Reg) (s : State) : exec (.vrng d a b m e) s = execVrng d a b m e s := rfl
theorem exec_vgmask (d : Reg) (a : Reg) (m : BitVec 2) (e : Reg) (s : State) : exec (.vgmask d a m e) s = execVgmask d a m e s := rfl
theorem exec_mma (c : BitVec 2) (a : BitVec 3) (b : BitVec 3) (x : BitVec 2) (y : BitVec 2) (z : BitVec 1) (k : BitVec 8) (u : BitVec 1) (s : State) : exec (.mma c a b x y z k u) s = execMma c a b x y z k u s := rfl
theorem exec_mcfg (d : Reg) (a : Reg) (s : State) : exec (.mcfg d a) s = execMcfg d a s := rfl
theorem exec_mring (d : Reg) (a : Reg) (s : State) : exec (.mring d a) s = execMring d a s := rfl
theorem exec_rpush (d : Reg) (a : Reg) (c : Reg) (s : State) : exec (.rpush d a c) s = execRpush d a c s := rfl
theorem exec_mzero (c : Reg) (s : State) : exec (.mzero c) s = execMzero c s := rfl
theorem exec_mst (a : Reg) (b : Reg) (c : Reg) (s : State) : exec (.mst a b c) s = execMst a b c s := rfl
theorem exec_mdup (a : Reg) (s : State) : exec (.mdup a) s = execMdup a s := rfl
theorem exec_cpy (d : Reg) (a : Reg) (b : Reg) (c : Reg) (l : Reg) (s : State) : exec (.cpy d a b c l) s = execCpy d a b c l s := rfl
theorem exec_cpyw (d : Reg) (a : Reg) (l : Reg) (s : State) : exec (.cpyw d a l) s = execCpyw d a l s := rfl
theorem exec_cpyres (d : Reg) (a : Reg) (s : State) : exec (.cpyres d a) s = execCpyres d a s := rfl
theorem exec_gath (d : Reg) (a : Reg) (l : Reg) (s : State) : exec (.gath d a l) s = execGath d a l s := rfl
theorem exec_coll (d : Reg) (a : Reg) (l : Reg) (s : State) : exec (.coll d a l) s = execColl d a l s := rfl
theorem exec_bar (d : Reg) (a : Reg) (l : Reg) (s : State) : exec (.bar d a l) s = execBar d a l s := rfl
theorem exec_quies (d : Reg) (l : Reg) (s : State) : exec (.quies d l) s = execQuies d l s := rfl
theorem exec_bhash (d : Reg) (a : Reg) (b : Reg) (l : Reg) (s : State) : exec (.bhash d a b l) s = execBhash d a b l s := rfl
theorem exec_pfxlook (d : Reg) (a : Reg) (b : Reg) (l : Reg) (s : State) : exec (.pfxlook d a b l) s = execPfxlook d a b l s := rfl
theorem exec_pfxins (d : Reg) (a : Reg) (b : Reg) (l : Reg) (s : State) : exec (.pfxins d a b l) s = execPfxins d a b l s := rfl
theorem exec_pfxpin (d : Reg) (a : Reg) (b : Reg) (c : Reg) (l : Reg) (s : State) : exec (.pfxpin d a b c l) s = execPfxpin d a b c l s := rfl
theorem exec_pfxunpin (d : Reg) (a : Reg) (b : Reg) (l : Reg) (s : State) : exec (.pfxunpin d a b l) s = execPfxunpin d a b l s := rfl
theorem exec_ancm (d : Reg) (a : Reg) (b : Reg) (l : Reg) (s : State) : exec (.ancm d a b l) s = execAncm d a b l s := rfl
theorem exec_kvapp (d : Reg) (a : Reg) (b : Reg) (c : Reg) (l : Reg) (s : State) : exec (.kvapp d a b c l) s = execKvapp d a b c l s := rfl
theorem exec_utfb (d : Reg) (a : Reg) (b : Reg) (s : State) : exec (.utfb d a b) s = execUtfb d a b s := rfl
theorem exec_trie (d : Reg) (a : Reg) (b : Reg) (c : Reg) (s : State) : exec (.trie d a b c) s = execTrie d a b c s := rfl
theorem exec_ecall (n : BitVec 12) (s : State) : exec (.ecall n) s = execEcall n s := rfl
theorem exec_ebrk (n : BitVec 12) (s : State) : exec (.ebrk n) s = execEbrk n s := rfl
theorem exec_tret (s : State) : exec (.tret) s = execTret s := rfl
theorem exec_waiti (s : State) : exec (.waiti) s = execWaiti s := rfl
theorem exec_halt (s : State) : exec (.halt) s = execHalt s := rfl
theorem exec_launchCommand (q : BitVec 12) (done : Word) (rec : Word) (s : State) : exec (.launchCommand q done rec) s = execLaunchCommand q done rec s := rfl
theorem exec_copyCommand (q : BitVec 12) (done : Word) (dst : Word) (src : Word) (len : Word) (s : State) : exec (.copyCommand q done dst src len) s = execCopyCommand q done dst src len s := rfl
theorem exec_signal (q : BitVec 12) (done : Word) (addr : Word) (value : Word) (s : State) : exec (.signal q done addr value) s = execSignal q done addr value s := rfl
theorem exec_waitCommand (q : BitVec 12) (done : Word) (addr : Word) (s : State) : exec (.waitCommand q done addr) s = execWaitCommand q done addr s := rfl
theorem exec_partitionCreate (q : BitVec 12) (done : Word) (desc : Word) (s : State) : exec (.partitionCreate q done desc) s = execPartitionCreate q done desc s := rfl
theorem exec_partitionResize (q : BitVec 12) (done : Word) (tpart : BitVec 6) (desc : Word) (s : State) : exec (.partitionResize q done tpart desc) s = execPartitionResize q done tpart desc s := rfl
theorem exec_partitionSetLimits (q : BitVec 12) (done : Word) (tpart : BitVec 6) (desc : Word) (s : State) : exec (.partitionSetLimits q done tpart desc) s = execPartitionSetLimits q done tpart desc s := rfl
theorem exec_preemptVacate (q : BitVec 12) (done : Word) (tpart : BitVec 6) (arg0 : Word) (rect : Word) (save : Word) (s : State) : exec (.preemptVacate q done tpart arg0 rect save) s = execPreemptVacate q done tpart arg0 rect save s := rfl
theorem exec_preemptSwitchOut (q : BitVec 12) (done : Word) (tpart : BitVec 6) (arg0 : Word) (save : Word) (s : State) : exec (.preemptSwitchOut q done tpart arg0 save) s = execPreemptSwitchOut q done tpart arg0 save s := rfl
theorem exec_preemptSwitchIn (q : BitVec 12) (done : Word) (tpart : BitVec 6) (save : Word) (s : State) : exec (.preemptSwitchIn q done tpart save) s = execPreemptSwitchIn q done tpart save s := rfl
theorem exec_preemptReturn (q : BitVec 12) (done : Word) (tpart : BitVec 6) (rect : Word) (save : Word) (s : State) : exec (.preemptReturn q done tpart rect save) s = execPreemptReturn q done tpart rect save s := rfl
theorem exec_teardown (q : BitVec 12) (done : Word) (tpart : BitVec 6) (s : State) : exec (.teardown q done tpart) s = execTeardown q done tpart s := rfl
theorem exec_notifyWrite (q : BitVec 12) (prod : Half) (s : State) : exec (.notifyWrite q prod) s = execNotifyWrite q prod s := rfl
theorem exec_commandFetch (q : BitVec 12) (s : State) : exec (.commandFetch q) s = execCommandFetch q s := rfl
theorem exec_commandRecordRefetch (q : BitVec 12) (s : State) : exec (.commandRecordRefetch q) s = execCommandRecordRefetch q s := rfl
theorem exec_queueEnable (q : BitVec 12) (v : Word) (s : State) : exec (.queueEnable q v) s = execQueueEnable q v s := rfl
theorem exec_queueStaleClear (q : BitVec 12) (s : State) : exec (.queueStaleClear q) s = execQueueStaleClear q s := rfl
theorem exec_intr (p : BitVec 6) (handle : Word) (s : State) : exec (.intr p handle) s = execIntr p handle s := rfl
theorem exec_go (p : BitVec 6) (s : State) : exec (.go p) s = execGo p s := rfl
theorem exec_stop (p : BitVec 6) (s : State) : exec (.stop p) s = execStop p s := rfl
theorem exec_erhead (p : BitVec 6) (v : Word) (s : State) : exec (.erhead p v) s = execErhead p v s := rfl
theorem exec_axisDescriptorWord0Write (ax : BitVec 14) (v : Word) (s : State) : exec (.axisDescriptorWord0Write ax v) s = execAxisDescriptorWord0Write ax v s := rfl
theorem exec_axisTokenRingHead (ax : BitVec 14) (v : Word) (s : State) : exec (.axisTokenRingHead ax v) s = execAxisTokenRingHead ax v s := rfl
theorem exec_traceRingEnable (c : Cid) (s : State) : exec (.traceRingEnable c) s = execTraceRingEnable c s := rfl
theorem exec_receiveLogEnable (c : Cid) (s : State) : exec (.receiveLogEnable c) s = execReceiveLogEnable c s := rfl
theorem exec_registerWrite (off : BitVec 22) (v : Word) (s : State) : exec (.registerWrite off v) s = execRegisterWrite off v s := rfl
theorem exec_hostBar2Write (off : BitVec 41) (sz : BitVec 2) (v : Word) (s : State) : exec (.hostBar2Write off sz v) s = execHostBar2Write off sz v s := rfl
theorem exec_hostBar2Read (off : BitVec 41) (sz : BitVec 2) (s : State) : exec (.hostBar2Read off sz) s = execHostBar2Read off sz s := rfl
theorem exec_slotPopulation (p : BitVec 6) (s : State) : exec (.slotPopulation p) s = execSlotPopulation p s := rfl
theorem exec_launchAging (id : Half) (s : State) : exec (.launchAging id) s = execLaunchAging id s := rfl
theorem exec_launchCompletion (id : Half) (s : State) : exec (.launchCompletion id) s = execLaunchCompletion id s := rfl
theorem exec_energyRefill (c : Cid) (s : State) : exec (.energyRefill c) s = execEnergyRefill c s := rfl
theorem exec_yieldExpiry (t : Tid) (s : State) : exec (.yieldExpiry t) s = execYieldExpiry t s := rfl
theorem exec_barrelIssue (c : Cid) (s : State) : exec (.barrelIssue c) s = execBarrelIssue c s := rfl
theorem exec_resultWriteback (t : Tid) (r : BitVec 5) (s : State) : exec (.resultWriteback t r) s = execResultWriteback t r s := rfl
theorem exec_storeAcknowledge (t : Tid) (s : State) : exec (.storeAcknowledge t) s = execStoreAcknowledge t s := rfl
theorem exec_parkedThreadWake (t : Tid) (s : State) : exec (.parkedThreadWake t) s = execParkedThreadWake t s := rfl
theorem exec_waitListResend (t : Tid) (s : State) : exec (.waitListResend t) s = execWaitListResend t s := rfl
theorem exec_holdTimeout (t : Tid) (s : State) : exec (.holdTimeout t) s = execHoldTimeout t s := rfl
theorem exec_asyncTrapEntry (t : Tid) (s : State) : exec (.asyncTrapEntry t) s = execAsyncTrapEntry t s := rfl
theorem exec_watchdogExpiry (p : BitVec 6) (s : State) : exec (.watchdogExpiry p) s = execWatchdogExpiry p s := rfl
theorem exec_rewindStackFullTimeout (t : Tid) (s : State) : exec (.rewindStackFullTimeout t) s = execRewindStackFullTimeout t s := rfl
theorem exec_tlbMissWalk (t : Tid) (va : Word) (s : State) : exec (.tlbMissWalk t va) s = execTlbMissWalk t va s := rfl
theorem exec_coreMapMissFill (c : Cid) (lcoord : BitVec 13) (s : State) : exec (.coreMapMissFill c lcoord) s = execCoreMapMissFill c lcoord s := rfl
theorem exec_roamMigrationArrival (n : Half) (s : State) : exec (.roamMigrationArrival n) s = execRoamMigrationArrival n s := rfl
theorem exec_levellingInterval (p : BitVec 6) (s : State) : exec (.levellingInterval p) s = execLevellingInterval p s := rfl
theorem exec_levellingArrival (n : Half) (s : State) : exec (.levellingArrival n) s = execLevellingArrival n s := rfl
theorem exec_messageArrival (n : Half) (s : State) : exec (.messageArrival n) s = execMessageArrival n s := rfl
theorem exec_antiMessageArrival (n : Half) (s : State) : exec (.antiMessageArrival n) s = execAntiMessageArrival n s := rfl
theorem exec_messageAcknowledge (n : Half) (s : State) : exec (.messageAcknowledge n) s = execMessageAcknowledge n s := rfl
theorem exec_messageResend (n : Half) (s : State) : exec (.messageResend n) s = execMessageResend n s := rfl
theorem exec_rollbackEventVector (t : Tid) (s : State) : exec (.rollbackEventVector t) s = execRollbackEventVector t s := rfl
theorem exec_horizonRoundStart (p : BitVec 6) (ax : BitVec 6) (s : State) : exec (.horizonRoundStart p ax) s = execHorizonRoundStart p ax s := rfl
theorem exec_horizonRoundClose (p : BitVec 6) (ax : BitVec 6) (s : State) : exec (.horizonRoundClose p ax) s = execHorizonRoundClose p ax s := rfl
theorem exec_directoryCascadeEvent (n : Half) (s : State) : exec (.directoryCascadeEvent n) s = execDirectoryCascadeEvent n s := rfl
theorem exec_deferredEffectPerform (c : Cid) (s : State) : exec (.deferredEffectPerform c) s = execDeferredEffectPerform c s := rfl
theorem exec_tokenRetirementBatch (ax : BitVec 14) (s : State) : exec (.tokenRetirementBatch ax) s = execTokenRetirementBatch ax s := rfl
theorem exec_frameAxisReset (ax : BitVec 14) (s : State) : exec (.frameAxisReset ax) s = execFrameAxisReset ax s := rfl
theorem exec_vectorEngineStart (c : Cid) (s : State) : exec (.vectorEngineStart c) s = execVectorEngineStart c s := rfl
theorem exec_matrixQueueHead (c : Cid) (s : State) : exec (.matrixQueueHead c) s = execMatrixQueueHead c s := rfl
theorem exec_mmaStep (c : Cid) (s : State) : exec (.mmaStep c) s = execMmaStep c s := rfl
theorem exec_copyJobStart (c : Cid) (j : BitVec 4) (s : State) : exec (.copyJobStart c j) s = execCopyJobStart c j s := rfl
theorem exec_copyGranule (c : Cid) (j : BitVec 4) (s : State) : exec (.copyGranule c j) s = execCopyGranule c j s := rfl
theorem exec_gathWalk (c : Cid) (j : BitVec 4) (s : State) : exec (.gathWalk c j) s = execGathWalk c j s := rfl
theorem exec_collMatch (tag : Word) (s : State) : exec (.collMatch tag) s = execCollMatch tag s := rfl
theorem exec_barrierArrival (t : Tid) (s : State) : exec (.barrierArrival t) s = execBarrierArrival t s := rfl
theorem exec_quiescenceSpanComplete (p : BitVec 6) (s : State) : exec (.quiescenceSpanComplete p) s = execQuiescenceSpanComplete p s := rfl
theorem exec_peerRequestArrival (mm : BitVec 6) (op : BitVec 4) (phys : BitVec 41) (sz : BitVec 2) (v : Word) (s : State) : exec (.peerRequestArrival mm op phys sz v) s = execPeerRequestArrival mm op phys sz v s := rfl
theorem exec_linkDown (n : BitVec 5) (s : State) : exec (.linkDown n) s = execLinkDown n s := rfl
theorem exec_replayDelivery (c : Cid) (s : State) : exec (.replayDelivery c) s = execReplayDelivery c s := rfl
theorem exec_powerThrottle (dies : BitVec 16) (cycles : BitVec 16) (s : State) : exec (.powerThrottle dies cycles) s = execPowerThrottle dies cycles s := rfl
theorem exec_inFieldTestStart (c : Cid) (s : State) : exec (.inFieldTestStart c) s = execInFieldTestStart c s := rfl
theorem exec_inFieldTestComplete (c : Cid) (pass : Bool) (s : State) : exec (.inFieldTestComplete c pass) s = execInFieldTestComplete c pass s := rfl
theorem exec_inFieldTestAbort (c : Cid) (s : State) : exec (.inFieldTestAbort c) s = execInFieldTestAbort c s := rfl
theorem exec_quadReplacement (bad : Cid) (spare : Cid) (s : State) : exec (.quadReplacement bad spare) s = execQuadReplacement bad spare s := rfl
theorem exec_fwleaseRenew (s : State) : exec (.fwleaseRenew) s = execFwleaseRenew s := rfl
theorem exec_fwleaseTakeover (die : BitVec 4) (s : State) : exec (.fwleaseTakeover die) s = execFwleaseTakeover die s := rfl
theorem exec_powerGood (s : State) : exec (.powerGood) s = execPowerGood s := rfl
theorem exec_stage1Reached (dieOk : BitVec 16) (s : State) : exec (.stage1Reached dieOk) s = execStage1Reached dieOk s := rfl
theorem exec_stage2Reached (s : State) : exec (.stage2Reached) s = execStage2Reached s := rfl
theorem exec_startFailure (reason : Byte) (s : State) : exec (.startFailure reason) s = execStartFailure reason s := rfl
theorem exec_startTimeout (s : State) : exec (.startTimeout) s = execStartTimeout s := rfl
theorem exec_pldmPlatformMonitoring (s : State) : exec (.pldmPlatformMonitoring) s = execPldmPlatformMonitoring s := rfl
theorem exec_pldmFirmwareUpdate (component : Bool) (image : Word) (verified : Bool) (s : State) : exec (.pldmFirmwareUpdate component image verified) s = execPldmFirmwareUpdate component image verified s := rfl
theorem exec_pldmReset (s : State) : exec (.pldmReset) s = execPldmReset s := rfl
theorem exec_spdmAttestation (s : State) : exec (.spdmAttestation) s = execSpdmAttestation s := rfl
theorem exec_postedStoreCompletion (t : Tid) (s : State) : exec (.postedStoreCompletion t) s = execPostedStoreCompletion t s := rfl
theorem exec_moveConfirmation (n : Half) (s : State) : exec (.moveConfirmation n) s = execMoveConfirmation n s := rfl

end Sys2Proof.Machine
end

