-- ==== Sys2Proof/Laws/State.lean ====
section
/-! SUPPORT. One lemma for each field and each update of the state and of a thread: what the update leaves, and what it
writes. -/
namespace Sys2Proof.Machine

@[simp] theorem State.mapTh_th (s : State) (f : Thread → Thread) : (s.mapTh f).th = f s.th := rfl
@[simp] theorem State.mapTh_core (s : State) (f : Thread → Thread) : (s.mapTh f).core = s.core := rfl
@[simp] theorem State.mapTh_part (s : State) (f : Thread → Thread) : (s.mapTh f).part = s.part := rfl
@[simp] theorem State.mapTh_others (s : State) (f : Thread → Thread) : (s.mapTh f).others = s.others := rfl
@[simp] theorem State.mapTh_cores (s : State) (f : Thread → Thread) : (s.mapTh f).cores = s.cores := rfl
@[simp] theorem State.mapTh_parts (s : State) (f : Thread → Thread) : (s.mapTh f).parts = s.parts := rfl
@[simp] theorem State.mapTh_mem (s : State) (f : Thread → Thread) : (s.mapTh f).mem = s.mem := rfl
@[simp] theorem State.mapTh_keyed (s : State) (f : Thread → Thread) : (s.mapTh f).keyed = s.keyed := rfl
@[simp] theorem State.mapTh_empties (s : State) (f : Thread → Thread) : (s.mapTh f).empties = s.empties := rfl
@[simp] theorem State.mapTh_poison (s : State) (f : Thread → Thread) : (s.mapTh f).poison = s.poison := rfl
@[simp] theorem State.mapTh_badTags (s : State) (f : Thread → Thread) : (s.mapTh f).badTags = s.badTags := rfl
@[simp] theorem State.mapTh_waiters (s : State) (f : Thread → Thread) : (s.mapTh f).waiters = s.waiters := rfl
@[simp] theorem State.mapTh_held (s : State) (f : Thread → Thread) : (s.mapTh f).held = s.held := rfl
@[simp] theorem State.mapTh_dispensers (s : State) (f : Thread → Thread) : (s.mapTh f).dispensers = s.dispensers := rfl
@[simp] theorem State.mapTh_dir (s : State) (f : Thread → Thread) : (s.mapTh f).dir = s.dir := rfl
@[simp] theorem State.mapTh_cascade (s : State) (f : Thread → Thread) : (s.mapTh f).cascade = s.cascade := rfl
@[simp] theorem State.mapTh_messages (s : State) (f : Thread → Thread) : (s.mapTh f).messages = s.messages := rfl
@[simp] theorem State.mapTh_transits (s : State) (f : Thread → Thread) : (s.mapTh f).transits = s.transits := rfl
@[simp] theorem State.mapTh_moves (s : State) (f : Thread → Thread) : (s.mapTh f).moves = s.moves := rfl
@[simp] theorem State.mapTh_launches (s : State) (f : Thread → Thread) : (s.mapTh f).launches = s.launches := rfl
@[simp] theorem State.mapTh_axes (s : State) (f : Thread → Thread) : (s.mapTh f).axes = s.axes := rfl
@[simp] theorem State.mapTh_tlb2 (s : State) (f : Thread → Thread) : (s.mapTh f).tlb2 = s.tlb2 := rfl
@[simp] theorem State.mapTh_queues (s : State) (f : Thread → Thread) : (s.mapTh f).queues = s.queues := rfl
@[simp] theorem State.mapTh_copies (s : State) (f : Thread → Thread) : (s.mapTh f).copies = s.copies := rfl
@[simp] theorem State.mapTh_modl (s : State) (f : Thread → Thread) : (s.mapTh f).modl = s.modl := rfl
@[simp] theorem State.mapTh_cycle (s : State) (f : Thread → Thread) : (s.mapTh f).cycle = s.cycle := rfl
@[simp] theorem State.mapTh_nextId (s : State) (f : Thread → Thread) : (s.mapTh f).nextId = s.nextId := rfl
@[simp] theorem State.mapTh_freeCtr (s : State) (f : Thread → Thread) : (s.mapTh f).freeCtr = s.freeCtr := rfl
@[simp] theorem State.mapTh_engineTurn (s : State) (f : Thread → Thread) : (s.mapTh f).engineTurn = s.engineTurn := rfl
@[simp] theorem State.mapTh_issueNow (s : State) (f : Thread → Thread) : (s.mapTh f).issueNow = s.issueNow := rfl
@[simp] theorem State.mapTh_inbox (s : State) (f : Thread → Thread) : (s.mapTh f).inbox = s.inbox := rfl

@[simp] theorem State.mapCore_th (s : State) (f : Core → Core) : (s.mapCore f).th = s.th := rfl
@[simp] theorem State.mapCore_core (s : State) (f : Core → Core) : (s.mapCore f).core = f s.core := rfl
@[simp] theorem State.mapCore_part (s : State) (f : Core → Core) : (s.mapCore f).part = s.part := rfl
@[simp] theorem State.mapCore_others (s : State) (f : Core → Core) : (s.mapCore f).others = s.others := rfl
@[simp] theorem State.mapCore_cores (s : State) (f : Core → Core) : (s.mapCore f).cores = s.cores := rfl
@[simp] theorem State.mapCore_parts (s : State) (f : Core → Core) : (s.mapCore f).parts = s.parts := rfl
@[simp] theorem State.mapCore_mem (s : State) (f : Core → Core) : (s.mapCore f).mem = s.mem := rfl
@[simp] theorem State.mapCore_keyed (s : State) (f : Core → Core) : (s.mapCore f).keyed = s.keyed := rfl
@[simp] theorem State.mapCore_empties (s : State) (f : Core → Core) : (s.mapCore f).empties = s.empties := rfl
@[simp] theorem State.mapCore_poison (s : State) (f : Core → Core) : (s.mapCore f).poison = s.poison := rfl
@[simp] theorem State.mapCore_badTags (s : State) (f : Core → Core) : (s.mapCore f).badTags = s.badTags := rfl
@[simp] theorem State.mapCore_waiters (s : State) (f : Core → Core) : (s.mapCore f).waiters = s.waiters := rfl
@[simp] theorem State.mapCore_held (s : State) (f : Core → Core) : (s.mapCore f).held = s.held := rfl
@[simp] theorem State.mapCore_dispensers (s : State) (f : Core → Core) : (s.mapCore f).dispensers = s.dispensers := rfl
@[simp] theorem State.mapCore_dir (s : State) (f : Core → Core) : (s.mapCore f).dir = s.dir := rfl
@[simp] theorem State.mapCore_cascade (s : State) (f : Core → Core) : (s.mapCore f).cascade = s.cascade := rfl
@[simp] theorem State.mapCore_messages (s : State) (f : Core → Core) : (s.mapCore f).messages = s.messages := rfl
@[simp] theorem State.mapCore_transits (s : State) (f : Core → Core) : (s.mapCore f).transits = s.transits := rfl
@[simp] theorem State.mapCore_moves (s : State) (f : Core → Core) : (s.mapCore f).moves = s.moves := rfl
@[simp] theorem State.mapCore_launches (s : State) (f : Core → Core) : (s.mapCore f).launches = s.launches := rfl
@[simp] theorem State.mapCore_axes (s : State) (f : Core → Core) : (s.mapCore f).axes = s.axes := rfl
@[simp] theorem State.mapCore_tlb2 (s : State) (f : Core → Core) : (s.mapCore f).tlb2 = s.tlb2 := rfl
@[simp] theorem State.mapCore_queues (s : State) (f : Core → Core) : (s.mapCore f).queues = s.queues := rfl
@[simp] theorem State.mapCore_copies (s : State) (f : Core → Core) : (s.mapCore f).copies = s.copies := rfl
@[simp] theorem State.mapCore_modl (s : State) (f : Core → Core) : (s.mapCore f).modl = s.modl := rfl
@[simp] theorem State.mapCore_cycle (s : State) (f : Core → Core) : (s.mapCore f).cycle = s.cycle := rfl
@[simp] theorem State.mapCore_nextId (s : State) (f : Core → Core) : (s.mapCore f).nextId = s.nextId := rfl
@[simp] theorem State.mapCore_freeCtr (s : State) (f : Core → Core) : (s.mapCore f).freeCtr = s.freeCtr := rfl
@[simp] theorem State.mapCore_engineTurn (s : State) (f : Core → Core) : (s.mapCore f).engineTurn = s.engineTurn := rfl
@[simp] theorem State.mapCore_issueNow (s : State) (f : Core → Core) : (s.mapCore f).issueNow = s.issueNow := rfl
@[simp] theorem State.mapCore_inbox (s : State) (f : Core → Core) : (s.mapCore f).inbox = s.inbox := rfl

@[simp] theorem State.mapPart_th (s : State) (f : Partition → Partition) : (s.mapPart f).th = s.th := rfl
@[simp] theorem State.mapPart_core (s : State) (f : Partition → Partition) : (s.mapPart f).core = s.core := rfl
@[simp] theorem State.mapPart_part (s : State) (f : Partition → Partition) : (s.mapPart f).part = f s.part := rfl
@[simp] theorem State.mapPart_others (s : State) (f : Partition → Partition) : (s.mapPart f).others = s.others := rfl
@[simp] theorem State.mapPart_cores (s : State) (f : Partition → Partition) : (s.mapPart f).cores = s.cores := rfl
@[simp] theorem State.mapPart_parts (s : State) (f : Partition → Partition) : (s.mapPart f).parts = s.parts := rfl
@[simp] theorem State.mapPart_mem (s : State) (f : Partition → Partition) : (s.mapPart f).mem = s.mem := rfl
@[simp] theorem State.mapPart_keyed (s : State) (f : Partition → Partition) : (s.mapPart f).keyed = s.keyed := rfl
@[simp] theorem State.mapPart_empties (s : State) (f : Partition → Partition) : (s.mapPart f).empties = s.empties := rfl
@[simp] theorem State.mapPart_poison (s : State) (f : Partition → Partition) : (s.mapPart f).poison = s.poison := rfl
@[simp] theorem State.mapPart_badTags (s : State) (f : Partition → Partition) : (s.mapPart f).badTags = s.badTags := rfl
@[simp] theorem State.mapPart_waiters (s : State) (f : Partition → Partition) : (s.mapPart f).waiters = s.waiters := rfl
@[simp] theorem State.mapPart_held (s : State) (f : Partition → Partition) : (s.mapPart f).held = s.held := rfl
@[simp] theorem State.mapPart_dispensers (s : State) (f : Partition → Partition) : (s.mapPart f).dispensers = s.dispensers := rfl
@[simp] theorem State.mapPart_dir (s : State) (f : Partition → Partition) : (s.mapPart f).dir = s.dir := rfl
@[simp] theorem State.mapPart_cascade (s : State) (f : Partition → Partition) : (s.mapPart f).cascade = s.cascade := rfl
@[simp] theorem State.mapPart_messages (s : State) (f : Partition → Partition) : (s.mapPart f).messages = s.messages := rfl
@[simp] theorem State.mapPart_transits (s : State) (f : Partition → Partition) : (s.mapPart f).transits = s.transits := rfl
@[simp] theorem State.mapPart_moves (s : State) (f : Partition → Partition) : (s.mapPart f).moves = s.moves := rfl
@[simp] theorem State.mapPart_launches (s : State) (f : Partition → Partition) : (s.mapPart f).launches = s.launches := rfl
@[simp] theorem State.mapPart_axes (s : State) (f : Partition → Partition) : (s.mapPart f).axes = s.axes := rfl
@[simp] theorem State.mapPart_tlb2 (s : State) (f : Partition → Partition) : (s.mapPart f).tlb2 = s.tlb2 := rfl
@[simp] theorem State.mapPart_queues (s : State) (f : Partition → Partition) : (s.mapPart f).queues = s.queues := rfl
@[simp] theorem State.mapPart_copies (s : State) (f : Partition → Partition) : (s.mapPart f).copies = s.copies := rfl
@[simp] theorem State.mapPart_modl (s : State) (f : Partition → Partition) : (s.mapPart f).modl = s.modl := rfl
@[simp] theorem State.mapPart_cycle (s : State) (f : Partition → Partition) : (s.mapPart f).cycle = s.cycle := rfl
@[simp] theorem State.mapPart_nextId (s : State) (f : Partition → Partition) : (s.mapPart f).nextId = s.nextId := rfl
@[simp] theorem State.mapPart_freeCtr (s : State) (f : Partition → Partition) : (s.mapPart f).freeCtr = s.freeCtr := rfl
@[simp] theorem State.mapPart_engineTurn (s : State) (f : Partition → Partition) : (s.mapPart f).engineTurn = s.engineTurn := rfl
@[simp] theorem State.mapPart_issueNow (s : State) (f : Partition → Partition) : (s.mapPart f).issueNow = s.issueNow := rfl
@[simp] theorem State.mapPart_inbox (s : State) (f : Partition → Partition) : (s.mapPart f).inbox = s.inbox := rfl

@[simp] theorem State.wr_th (s : State) (r : Reg) (x : Word) : (s.wr r x).th = s.th.wr r x := rfl
@[simp] theorem State.wr_core (s : State) (r : Reg) (x : Word) : (s.wr r x).core = s.core := rfl
@[simp] theorem State.wr_part (s : State) (r : Reg) (x : Word) : (s.wr r x).part = s.part := rfl
@[simp] theorem State.wr_others (s : State) (r : Reg) (x : Word) : (s.wr r x).others = s.others := rfl
@[simp] theorem State.wr_cores (s : State) (r : Reg) (x : Word) : (s.wr r x).cores = s.cores := rfl
@[simp] theorem State.wr_parts (s : State) (r : Reg) (x : Word) : (s.wr r x).parts = s.parts := rfl
@[simp] theorem State.wr_mem (s : State) (r : Reg) (x : Word) : (s.wr r x).mem = s.mem := rfl
@[simp] theorem State.wr_keyed (s : State) (r : Reg) (x : Word) : (s.wr r x).keyed = s.keyed := rfl
@[simp] theorem State.wr_empties (s : State) (r : Reg) (x : Word) : (s.wr r x).empties = s.empties := rfl
@[simp] theorem State.wr_poison (s : State) (r : Reg) (x : Word) : (s.wr r x).poison = s.poison := rfl
@[simp] theorem State.wr_badTags (s : State) (r : Reg) (x : Word) : (s.wr r x).badTags = s.badTags := rfl
@[simp] theorem State.wr_waiters (s : State) (r : Reg) (x : Word) : (s.wr r x).waiters = s.waiters := rfl
@[simp] theorem State.wr_held (s : State) (r : Reg) (x : Word) : (s.wr r x).held = s.held := rfl
@[simp] theorem State.wr_dispensers (s : State) (r : Reg) (x : Word) : (s.wr r x).dispensers = s.dispensers := rfl
@[simp] theorem State.wr_dir (s : State) (r : Reg) (x : Word) : (s.wr r x).dir = s.dir := rfl
@[simp] theorem State.wr_cascade (s : State) (r : Reg) (x : Word) : (s.wr r x).cascade = s.cascade := rfl
@[simp] theorem State.wr_messages (s : State) (r : Reg) (x : Word) : (s.wr r x).messages = s.messages := rfl
@[simp] theorem State.wr_transits (s : State) (r : Reg) (x : Word) : (s.wr r x).transits = s.transits := rfl
@[simp] theorem State.wr_moves (s : State) (r : Reg) (x : Word) : (s.wr r x).moves = s.moves := rfl
@[simp] theorem State.wr_launches (s : State) (r : Reg) (x : Word) : (s.wr r x).launches = s.launches := rfl
@[simp] theorem State.wr_axes (s : State) (r : Reg) (x : Word) : (s.wr r x).axes = s.axes := rfl
@[simp] theorem State.wr_tlb2 (s : State) (r : Reg) (x : Word) : (s.wr r x).tlb2 = s.tlb2 := rfl
@[simp] theorem State.wr_queues (s : State) (r : Reg) (x : Word) : (s.wr r x).queues = s.queues := rfl
@[simp] theorem State.wr_copies (s : State) (r : Reg) (x : Word) : (s.wr r x).copies = s.copies := rfl
@[simp] theorem State.wr_modl (s : State) (r : Reg) (x : Word) : (s.wr r x).modl = s.modl := rfl
@[simp] theorem State.wr_cycle (s : State) (r : Reg) (x : Word) : (s.wr r x).cycle = s.cycle := rfl
@[simp] theorem State.wr_nextId (s : State) (r : Reg) (x : Word) : (s.wr r x).nextId = s.nextId := rfl
@[simp] theorem State.wr_freeCtr (s : State) (r : Reg) (x : Word) : (s.wr r x).freeCtr = s.freeCtr := rfl
@[simp] theorem State.wr_engineTurn (s : State) (r : Reg) (x : Word) : (s.wr r x).engineTurn = s.engineTurn := rfl
@[simp] theorem State.wr_issueNow (s : State) (r : Reg) (x : Word) : (s.wr r x).issueNow = s.issueNow := rfl
@[simp] theorem State.wr_inbox (s : State) (r : Reg) (x : Word) : (s.wr r x).inbox = s.inbox := rfl

@[simp] theorem State.wrv_th (s : State) (r : Reg) (x : Vec) : (s.wrv r x).th = s.th.wrv r x := rfl
@[simp] theorem State.wrv_core (s : State) (r : Reg) (x : Vec) : (s.wrv r x).core = s.core := rfl
@[simp] theorem State.wrv_part (s : State) (r : Reg) (x : Vec) : (s.wrv r x).part = s.part := rfl
@[simp] theorem State.wrv_others (s : State) (r : Reg) (x : Vec) : (s.wrv r x).others = s.others := rfl
@[simp] theorem State.wrv_cores (s : State) (r : Reg) (x : Vec) : (s.wrv r x).cores = s.cores := rfl
@[simp] theorem State.wrv_parts (s : State) (r : Reg) (x : Vec) : (s.wrv r x).parts = s.parts := rfl
@[simp] theorem State.wrv_mem (s : State) (r : Reg) (x : Vec) : (s.wrv r x).mem = s.mem := rfl
@[simp] theorem State.wrv_keyed (s : State) (r : Reg) (x : Vec) : (s.wrv r x).keyed = s.keyed := rfl
@[simp] theorem State.wrv_empties (s : State) (r : Reg) (x : Vec) : (s.wrv r x).empties = s.empties := rfl
@[simp] theorem State.wrv_poison (s : State) (r : Reg) (x : Vec) : (s.wrv r x).poison = s.poison := rfl
@[simp] theorem State.wrv_badTags (s : State) (r : Reg) (x : Vec) : (s.wrv r x).badTags = s.badTags := rfl
@[simp] theorem State.wrv_waiters (s : State) (r : Reg) (x : Vec) : (s.wrv r x).waiters = s.waiters := rfl
@[simp] theorem State.wrv_held (s : State) (r : Reg) (x : Vec) : (s.wrv r x).held = s.held := rfl
@[simp] theorem State.wrv_dispensers (s : State) (r : Reg) (x : Vec) : (s.wrv r x).dispensers = s.dispensers := rfl
@[simp] theorem State.wrv_dir (s : State) (r : Reg) (x : Vec) : (s.wrv r x).dir = s.dir := rfl
@[simp] theorem State.wrv_cascade (s : State) (r : Reg) (x : Vec) : (s.wrv r x).cascade = s.cascade := rfl
@[simp] theorem State.wrv_messages (s : State) (r : Reg) (x : Vec) : (s.wrv r x).messages = s.messages := rfl
@[simp] theorem State.wrv_transits (s : State) (r : Reg) (x : Vec) : (s.wrv r x).transits = s.transits := rfl
@[simp] theorem State.wrv_moves (s : State) (r : Reg) (x : Vec) : (s.wrv r x).moves = s.moves := rfl
@[simp] theorem State.wrv_launches (s : State) (r : Reg) (x : Vec) : (s.wrv r x).launches = s.launches := rfl
@[simp] theorem State.wrv_axes (s : State) (r : Reg) (x : Vec) : (s.wrv r x).axes = s.axes := rfl
@[simp] theorem State.wrv_tlb2 (s : State) (r : Reg) (x : Vec) : (s.wrv r x).tlb2 = s.tlb2 := rfl
@[simp] theorem State.wrv_queues (s : State) (r : Reg) (x : Vec) : (s.wrv r x).queues = s.queues := rfl
@[simp] theorem State.wrv_copies (s : State) (r : Reg) (x : Vec) : (s.wrv r x).copies = s.copies := rfl
@[simp] theorem State.wrv_modl (s : State) (r : Reg) (x : Vec) : (s.wrv r x).modl = s.modl := rfl
@[simp] theorem State.wrv_cycle (s : State) (r : Reg) (x : Vec) : (s.wrv r x).cycle = s.cycle := rfl
@[simp] theorem State.wrv_nextId (s : State) (r : Reg) (x : Vec) : (s.wrv r x).nextId = s.nextId := rfl
@[simp] theorem State.wrv_freeCtr (s : State) (r : Reg) (x : Vec) : (s.wrv r x).freeCtr = s.freeCtr := rfl
@[simp] theorem State.wrv_engineTurn (s : State) (r : Reg) (x : Vec) : (s.wrv r x).engineTurn = s.engineTurn := rfl
@[simp] theorem State.wrv_issueNow (s : State) (r : Reg) (x : Vec) : (s.wrv r x).issueNow = s.issueNow := rfl
@[simp] theorem State.wrv_inbox (s : State) (r : Reg) (x : Vec) : (s.wrv r x).inbox = s.inbox := rfl

@[simp] theorem State.wrm_th (s : State) (r : BitVec 2) (x : Word) : (s.wrm r x).th = s.th.wrm r x := rfl
@[simp] theorem State.wrm_core (s : State) (r : BitVec 2) (x : Word) : (s.wrm r x).core = s.core := rfl
@[simp] theorem State.wrm_part (s : State) (r : BitVec 2) (x : Word) : (s.wrm r x).part = s.part := rfl
@[simp] theorem State.wrm_others (s : State) (r : BitVec 2) (x : Word) : (s.wrm r x).others = s.others := rfl
@[simp] theorem State.wrm_cores (s : State) (r : BitVec 2) (x : Word) : (s.wrm r x).cores = s.cores := rfl
@[simp] theorem State.wrm_parts (s : State) (r : BitVec 2) (x : Word) : (s.wrm r x).parts = s.parts := rfl
@[simp] theorem State.wrm_mem (s : State) (r : BitVec 2) (x : Word) : (s.wrm r x).mem = s.mem := rfl
@[simp] theorem State.wrm_keyed (s : State) (r : BitVec 2) (x : Word) : (s.wrm r x).keyed = s.keyed := rfl
@[simp] theorem State.wrm_empties (s : State) (r : BitVec 2) (x : Word) : (s.wrm r x).empties = s.empties := rfl
@[simp] theorem State.wrm_poison (s : State) (r : BitVec 2) (x : Word) : (s.wrm r x).poison = s.poison := rfl
@[simp] theorem State.wrm_badTags (s : State) (r : BitVec 2) (x : Word) : (s.wrm r x).badTags = s.badTags := rfl
@[simp] theorem State.wrm_waiters (s : State) (r : BitVec 2) (x : Word) : (s.wrm r x).waiters = s.waiters := rfl
@[simp] theorem State.wrm_held (s : State) (r : BitVec 2) (x : Word) : (s.wrm r x).held = s.held := rfl
@[simp] theorem State.wrm_dispensers (s : State) (r : BitVec 2) (x : Word) : (s.wrm r x).dispensers = s.dispensers := rfl
@[simp] theorem State.wrm_dir (s : State) (r : BitVec 2) (x : Word) : (s.wrm r x).dir = s.dir := rfl
@[simp] theorem State.wrm_cascade (s : State) (r : BitVec 2) (x : Word) : (s.wrm r x).cascade = s.cascade := rfl
@[simp] theorem State.wrm_messages (s : State) (r : BitVec 2) (x : Word) : (s.wrm r x).messages = s.messages := rfl
@[simp] theorem State.wrm_transits (s : State) (r : BitVec 2) (x : Word) : (s.wrm r x).transits = s.transits := rfl
@[simp] theorem State.wrm_moves (s : State) (r : BitVec 2) (x : Word) : (s.wrm r x).moves = s.moves := rfl
@[simp] theorem State.wrm_launches (s : State) (r : BitVec 2) (x : Word) : (s.wrm r x).launches = s.launches := rfl
@[simp] theorem State.wrm_axes (s : State) (r : BitVec 2) (x : Word) : (s.wrm r x).axes = s.axes := rfl
@[simp] theorem State.wrm_tlb2 (s : State) (r : BitVec 2) (x : Word) : (s.wrm r x).tlb2 = s.tlb2 := rfl
@[simp] theorem State.wrm_queues (s : State) (r : BitVec 2) (x : Word) : (s.wrm r x).queues = s.queues := rfl
@[simp] theorem State.wrm_copies (s : State) (r : BitVec 2) (x : Word) : (s.wrm r x).copies = s.copies := rfl
@[simp] theorem State.wrm_modl (s : State) (r : BitVec 2) (x : Word) : (s.wrm r x).modl = s.modl := rfl
@[simp] theorem State.wrm_cycle (s : State) (r : BitVec 2) (x : Word) : (s.wrm r x).cycle = s.cycle := rfl
@[simp] theorem State.wrm_nextId (s : State) (r : BitVec 2) (x : Word) : (s.wrm r x).nextId = s.nextId := rfl
@[simp] theorem State.wrm_freeCtr (s : State) (r : BitVec 2) (x : Word) : (s.wrm r x).freeCtr = s.freeCtr := rfl
@[simp] theorem State.wrm_engineTurn (s : State) (r : BitVec 2) (x : Word) : (s.wrm r x).engineTurn = s.engineTurn := rfl
@[simp] theorem State.wrm_issueNow (s : State) (r : BitVec 2) (x : Word) : (s.wrm r x).issueNow = s.issueNow := rfl
@[simp] theorem State.wrm_inbox (s : State) (r : BitVec 2) (x : Word) : (s.wrm r x).inbox = s.inbox := rfl

@[simp] theorem State.advance_th (s : State) : (s.advance).th = s.th.step4.counted := rfl
@[simp] theorem State.advance_core (s : State) : (s.advance).core = s.core := rfl
@[simp] theorem State.advance_part (s : State) : (s.advance).part = s.part := rfl
@[simp] theorem State.advance_others (s : State) : (s.advance).others = s.others := rfl
@[simp] theorem State.advance_cores (s : State) : (s.advance).cores = s.cores := rfl
@[simp] theorem State.advance_parts (s : State) : (s.advance).parts = s.parts := rfl
@[simp] theorem State.advance_mem (s : State) : (s.advance).mem = s.mem := rfl
@[simp] theorem State.advance_keyed (s : State) : (s.advance).keyed = s.keyed := rfl
@[simp] theorem State.advance_empties (s : State) : (s.advance).empties = s.empties := rfl
@[simp] theorem State.advance_poison (s : State) : (s.advance).poison = s.poison := rfl
@[simp] theorem State.advance_badTags (s : State) : (s.advance).badTags = s.badTags := rfl
@[simp] theorem State.advance_waiters (s : State) : (s.advance).waiters = s.waiters := rfl
@[simp] theorem State.advance_held (s : State) : (s.advance).held = s.held := rfl
@[simp] theorem State.advance_dispensers (s : State) : (s.advance).dispensers = s.dispensers := rfl
@[simp] theorem State.advance_dir (s : State) : (s.advance).dir = s.dir := rfl
@[simp] theorem State.advance_cascade (s : State) : (s.advance).cascade = s.cascade := rfl
@[simp] theorem State.advance_messages (s : State) : (s.advance).messages = s.messages := rfl
@[simp] theorem State.advance_transits (s : State) : (s.advance).transits = s.transits := rfl
@[simp] theorem State.advance_moves (s : State) : (s.advance).moves = s.moves := rfl
@[simp] theorem State.advance_launches (s : State) : (s.advance).launches = s.launches := rfl
@[simp] theorem State.advance_axes (s : State) : (s.advance).axes = s.axes := rfl
@[simp] theorem State.advance_tlb2 (s : State) : (s.advance).tlb2 = s.tlb2 := rfl
@[simp] theorem State.advance_queues (s : State) : (s.advance).queues = s.queues := rfl
@[simp] theorem State.advance_copies (s : State) : (s.advance).copies = s.copies := rfl
@[simp] theorem State.advance_modl (s : State) : (s.advance).modl = s.modl := rfl
@[simp] theorem State.advance_cycle (s : State) : (s.advance).cycle = s.cycle := rfl
@[simp] theorem State.advance_nextId (s : State) : (s.advance).nextId = s.nextId := rfl
@[simp] theorem State.advance_freeCtr (s : State) : (s.advance).freeCtr = s.freeCtr := rfl
@[simp] theorem State.advance_engineTurn (s : State) : (s.advance).engineTurn = s.engineTurn := rfl
@[simp] theorem State.advance_issueNow (s : State) : (s.advance).issueNow = s.issueNow := rfl
@[simp] theorem State.advance_inbox (s : State) : (s.advance).inbox = s.inbox := rfl

@[simp] theorem State.jump_th (s : State) (pc : Word) : (s.jump pc).th = { s.th.counted with pc := pc } := rfl
@[simp] theorem State.jump_core (s : State) (pc : Word) : (s.jump pc).core = s.core := rfl
@[simp] theorem State.jump_part (s : State) (pc : Word) : (s.jump pc).part = s.part := rfl
@[simp] theorem State.jump_others (s : State) (pc : Word) : (s.jump pc).others = s.others := rfl
@[simp] theorem State.jump_cores (s : State) (pc : Word) : (s.jump pc).cores = s.cores := rfl
@[simp] theorem State.jump_parts (s : State) (pc : Word) : (s.jump pc).parts = s.parts := rfl
@[simp] theorem State.jump_mem (s : State) (pc : Word) : (s.jump pc).mem = s.mem := rfl
@[simp] theorem State.jump_keyed (s : State) (pc : Word) : (s.jump pc).keyed = s.keyed := rfl
@[simp] theorem State.jump_empties (s : State) (pc : Word) : (s.jump pc).empties = s.empties := rfl
@[simp] theorem State.jump_poison (s : State) (pc : Word) : (s.jump pc).poison = s.poison := rfl
@[simp] theorem State.jump_badTags (s : State) (pc : Word) : (s.jump pc).badTags = s.badTags := rfl
@[simp] theorem State.jump_waiters (s : State) (pc : Word) : (s.jump pc).waiters = s.waiters := rfl
@[simp] theorem State.jump_held (s : State) (pc : Word) : (s.jump pc).held = s.held := rfl
@[simp] theorem State.jump_dispensers (s : State) (pc : Word) : (s.jump pc).dispensers = s.dispensers := rfl
@[simp] theorem State.jump_dir (s : State) (pc : Word) : (s.jump pc).dir = s.dir := rfl
@[simp] theorem State.jump_cascade (s : State) (pc : Word) : (s.jump pc).cascade = s.cascade := rfl
@[simp] theorem State.jump_messages (s : State) (pc : Word) : (s.jump pc).messages = s.messages := rfl
@[simp] theorem State.jump_transits (s : State) (pc : Word) : (s.jump pc).transits = s.transits := rfl
@[simp] theorem State.jump_moves (s : State) (pc : Word) : (s.jump pc).moves = s.moves := rfl
@[simp] theorem State.jump_launches (s : State) (pc : Word) : (s.jump pc).launches = s.launches := rfl
@[simp] theorem State.jump_axes (s : State) (pc : Word) : (s.jump pc).axes = s.axes := rfl
@[simp] theorem State.jump_tlb2 (s : State) (pc : Word) : (s.jump pc).tlb2 = s.tlb2 := rfl
@[simp] theorem State.jump_queues (s : State) (pc : Word) : (s.jump pc).queues = s.queues := rfl
@[simp] theorem State.jump_copies (s : State) (pc : Word) : (s.jump pc).copies = s.copies := rfl
@[simp] theorem State.jump_modl (s : State) (pc : Word) : (s.jump pc).modl = s.modl := rfl
@[simp] theorem State.jump_cycle (s : State) (pc : Word) : (s.jump pc).cycle = s.cycle := rfl
@[simp] theorem State.jump_nextId (s : State) (pc : Word) : (s.jump pc).nextId = s.nextId := rfl
@[simp] theorem State.jump_freeCtr (s : State) (pc : Word) : (s.jump pc).freeCtr = s.freeCtr := rfl
@[simp] theorem State.jump_engineTurn (s : State) (pc : Word) : (s.jump pc).engineTurn = s.engineTurn := rfl
@[simp] theorem State.jump_issueNow (s : State) (pc : Word) : (s.jump pc).issueNow = s.issueNow := rfl
@[simp] theorem State.jump_inbox (s : State) (pc : Word) : (s.jump pc).inbox = s.inbox := rfl

@[simp] theorem State.result_th (s : State) (d la : Reg) (x : Word) : (s.result d la x).th = s.th.result (wReg d) la s.th.pc (x.setWidth 512) := rfl
@[simp] theorem State.result_core (s : State) (d la : Reg) (x : Word) : (s.result d la x).core = s.core := rfl
@[simp] theorem State.result_part (s : State) (d la : Reg) (x : Word) : (s.result d la x).part = s.part := rfl
@[simp] theorem State.result_others (s : State) (d la : Reg) (x : Word) : (s.result d la x).others = s.others := rfl
@[simp] theorem State.result_cores (s : State) (d la : Reg) (x : Word) : (s.result d la x).cores = s.cores := rfl
@[simp] theorem State.result_parts (s : State) (d la : Reg) (x : Word) : (s.result d la x).parts = s.parts := rfl
@[simp] theorem State.result_mem (s : State) (d la : Reg) (x : Word) : (s.result d la x).mem = s.mem := rfl
@[simp] theorem State.result_keyed (s : State) (d la : Reg) (x : Word) : (s.result d la x).keyed = s.keyed := rfl
@[simp] theorem State.result_empties (s : State) (d la : Reg) (x : Word) : (s.result d la x).empties = s.empties := rfl
@[simp] theorem State.result_poison (s : State) (d la : Reg) (x : Word) : (s.result d la x).poison = s.poison := rfl
@[simp] theorem State.result_badTags (s : State) (d la : Reg) (x : Word) : (s.result d la x).badTags = s.badTags := rfl
@[simp] theorem State.result_waiters (s : State) (d la : Reg) (x : Word) : (s.result d la x).waiters = s.waiters := rfl
@[simp] theorem State.result_held (s : State) (d la : Reg) (x : Word) : (s.result d la x).held = s.held := rfl
@[simp] theorem State.result_dispensers (s : State) (d la : Reg) (x : Word) : (s.result d la x).dispensers = s.dispensers := rfl
@[simp] theorem State.result_dir (s : State) (d la : Reg) (x : Word) : (s.result d la x).dir = s.dir := rfl
@[simp] theorem State.result_cascade (s : State) (d la : Reg) (x : Word) : (s.result d la x).cascade = s.cascade := rfl
@[simp] theorem State.result_messages (s : State) (d la : Reg) (x : Word) : (s.result d la x).messages = s.messages := rfl
@[simp] theorem State.result_transits (s : State) (d la : Reg) (x : Word) : (s.result d la x).transits = s.transits := rfl
@[simp] theorem State.result_moves (s : State) (d la : Reg) (x : Word) : (s.result d la x).moves = s.moves := rfl
@[simp] theorem State.result_launches (s : State) (d la : Reg) (x : Word) : (s.result d la x).launches = s.launches := rfl
@[simp] theorem State.result_axes (s : State) (d la : Reg) (x : Word) : (s.result d la x).axes = s.axes := rfl
@[simp] theorem State.result_tlb2 (s : State) (d la : Reg) (x : Word) : (s.result d la x).tlb2 = s.tlb2 := rfl
@[simp] theorem State.result_queues (s : State) (d la : Reg) (x : Word) : (s.result d la x).queues = s.queues := rfl
@[simp] theorem State.result_copies (s : State) (d la : Reg) (x : Word) : (s.result d la x).copies = s.copies := rfl
@[simp] theorem State.result_modl (s : State) (d la : Reg) (x : Word) : (s.result d la x).modl = s.modl := rfl
@[simp] theorem State.result_cycle (s : State) (d la : Reg) (x : Word) : (s.result d la x).cycle = s.cycle := rfl
@[simp] theorem State.result_nextId (s : State) (d la : Reg) (x : Word) : (s.result d la x).nextId = s.nextId := rfl
@[simp] theorem State.result_freeCtr (s : State) (d la : Reg) (x : Word) : (s.result d la x).freeCtr = s.freeCtr := rfl
@[simp] theorem State.result_engineTurn (s : State) (d la : Reg) (x : Word) : (s.result d la x).engineTurn = s.engineTurn := rfl
@[simp] theorem State.result_issueNow (s : State) (d la : Reg) (x : Word) : (s.result d la x).issueNow = s.issueNow := rfl
@[simp] theorem State.result_inbox (s : State) (d la : Reg) (x : Word) : (s.result d la x).inbox = s.inbox := rfl

@[simp] theorem State.plainStored_th (s : State) : (s.plainStored).th = { s.th with pipe := { s.th.pipe with plainOut := true } } := rfl
@[simp] theorem State.plainStored_core (s : State) : (s.plainStored).core = s.core := rfl
@[simp] theorem State.plainStored_part (s : State) : (s.plainStored).part = s.part := rfl
@[simp] theorem State.plainStored_others (s : State) : (s.plainStored).others = s.others := rfl
@[simp] theorem State.plainStored_cores (s : State) : (s.plainStored).cores = s.cores := rfl
@[simp] theorem State.plainStored_parts (s : State) : (s.plainStored).parts = s.parts := rfl
@[simp] theorem State.plainStored_mem (s : State) : (s.plainStored).mem = s.mem := rfl
@[simp] theorem State.plainStored_keyed (s : State) : (s.plainStored).keyed = s.keyed := rfl
@[simp] theorem State.plainStored_empties (s : State) : (s.plainStored).empties = s.empties := rfl
@[simp] theorem State.plainStored_poison (s : State) : (s.plainStored).poison = s.poison := rfl
@[simp] theorem State.plainStored_badTags (s : State) : (s.plainStored).badTags = s.badTags := rfl
@[simp] theorem State.plainStored_waiters (s : State) : (s.plainStored).waiters = s.waiters := rfl
@[simp] theorem State.plainStored_held (s : State) : (s.plainStored).held = s.held := rfl
@[simp] theorem State.plainStored_dispensers (s : State) : (s.plainStored).dispensers = s.dispensers := rfl
@[simp] theorem State.plainStored_dir (s : State) : (s.plainStored).dir = s.dir := rfl
@[simp] theorem State.plainStored_cascade (s : State) : (s.plainStored).cascade = s.cascade := rfl
@[simp] theorem State.plainStored_messages (s : State) : (s.plainStored).messages = s.messages := rfl
@[simp] theorem State.plainStored_transits (s : State) : (s.plainStored).transits = s.transits := rfl
@[simp] theorem State.plainStored_moves (s : State) : (s.plainStored).moves = s.moves := rfl
@[simp] theorem State.plainStored_launches (s : State) : (s.plainStored).launches = s.launches := rfl
@[simp] theorem State.plainStored_axes (s : State) : (s.plainStored).axes = s.axes := rfl
@[simp] theorem State.plainStored_tlb2 (s : State) : (s.plainStored).tlb2 = s.tlb2 := rfl
@[simp] theorem State.plainStored_queues (s : State) : (s.plainStored).queues = s.queues := rfl
@[simp] theorem State.plainStored_copies (s : State) : (s.plainStored).copies = s.copies := rfl
@[simp] theorem State.plainStored_modl (s : State) : (s.plainStored).modl = s.modl := rfl
@[simp] theorem State.plainStored_cycle (s : State) : (s.plainStored).cycle = s.cycle := rfl
@[simp] theorem State.plainStored_nextId (s : State) : (s.plainStored).nextId = s.nextId := rfl
@[simp] theorem State.plainStored_freeCtr (s : State) : (s.plainStored).freeCtr = s.freeCtr := rfl
@[simp] theorem State.plainStored_engineTurn (s : State) : (s.plainStored).engineTurn = s.engineTurn := rfl
@[simp] theorem State.plainStored_issueNow (s : State) : (s.plainStored).issueNow = s.issueNow := rfl
@[simp] theorem State.plainStored_inbox (s : State) : (s.plainStored).inbox = s.inbox := rfl

@[simp] theorem State.output_th (s : State) (o : Output) : (s.output o).th = s.th := rfl
@[simp] theorem State.output_core (s : State) (o : Output) : (s.output o).core = s.core := rfl
@[simp] theorem State.output_part (s : State) (o : Output) : (s.output o).part = s.part := rfl
@[simp] theorem State.output_others (s : State) (o : Output) : (s.output o).others = s.others := rfl
@[simp] theorem State.output_cores (s : State) (o : Output) : (s.output o).cores = s.cores := rfl
@[simp] theorem State.output_parts (s : State) (o : Output) : (s.output o).parts = s.parts := rfl
@[simp] theorem State.output_mem (s : State) (o : Output) : (s.output o).mem = s.mem := rfl
@[simp] theorem State.output_keyed (s : State) (o : Output) : (s.output o).keyed = s.keyed := rfl
@[simp] theorem State.output_empties (s : State) (o : Output) : (s.output o).empties = s.empties := rfl
@[simp] theorem State.output_poison (s : State) (o : Output) : (s.output o).poison = s.poison := rfl
@[simp] theorem State.output_badTags (s : State) (o : Output) : (s.output o).badTags = s.badTags := rfl
@[simp] theorem State.output_waiters (s : State) (o : Output) : (s.output o).waiters = s.waiters := rfl
@[simp] theorem State.output_held (s : State) (o : Output) : (s.output o).held = s.held := rfl
@[simp] theorem State.output_dispensers (s : State) (o : Output) : (s.output o).dispensers = s.dispensers := rfl
@[simp] theorem State.output_dir (s : State) (o : Output) : (s.output o).dir = s.dir := rfl
@[simp] theorem State.output_cascade (s : State) (o : Output) : (s.output o).cascade = s.cascade := rfl
@[simp] theorem State.output_messages (s : State) (o : Output) : (s.output o).messages = s.messages := rfl
@[simp] theorem State.output_transits (s : State) (o : Output) : (s.output o).transits = s.transits := rfl
@[simp] theorem State.output_moves (s : State) (o : Output) : (s.output o).moves = s.moves := rfl
@[simp] theorem State.output_launches (s : State) (o : Output) : (s.output o).launches = s.launches := rfl
@[simp] theorem State.output_axes (s : State) (o : Output) : (s.output o).axes = s.axes := rfl
@[simp] theorem State.output_tlb2 (s : State) (o : Output) : (s.output o).tlb2 = s.tlb2 := rfl
@[simp] theorem State.output_queues (s : State) (o : Output) : (s.output o).queues = s.queues := rfl
@[simp] theorem State.output_copies (s : State) (o : Output) : (s.output o).copies = s.copies := rfl
@[simp] theorem State.output_modl (s : State) (o : Output) : (s.output o).modl = { s.modl with out := s.modl.out ++ [o] } := rfl
@[simp] theorem State.output_cycle (s : State) (o : Output) : (s.output o).cycle = s.cycle := rfl
@[simp] theorem State.output_nextId (s : State) (o : Output) : (s.output o).nextId = s.nextId := rfl
@[simp] theorem State.output_freeCtr (s : State) (o : Output) : (s.output o).freeCtr = s.freeCtr := rfl
@[simp] theorem State.output_engineTurn (s : State) (o : Output) : (s.output o).engineTurn = s.engineTurn := rfl
@[simp] theorem State.output_issueNow (s : State) (o : Output) : (s.output o).issueNow = s.issueNow := rfl
@[simp] theorem State.output_inbox (s : State) (o : Output) : (s.output o).inbox = s.inbox := rfl

@[simp] theorem State.clearPoison_th (s : State) (k n : Nat) : (s.clearPoison k n).th = s.th := rfl
@[simp] theorem State.clearPoison_core (s : State) (k n : Nat) : (s.clearPoison k n).core = s.core := rfl
@[simp] theorem State.clearPoison_part (s : State) (k n : Nat) : (s.clearPoison k n).part = s.part := rfl
@[simp] theorem State.clearPoison_others (s : State) (k n : Nat) : (s.clearPoison k n).others = s.others := rfl
@[simp] theorem State.clearPoison_cores (s : State) (k n : Nat) : (s.clearPoison k n).cores = s.cores := rfl
@[simp] theorem State.clearPoison_parts (s : State) (k n : Nat) : (s.clearPoison k n).parts = s.parts := rfl
@[simp] theorem State.clearPoison_mem (s : State) (k n : Nat) : (s.clearPoison k n).mem = s.mem := rfl
@[simp] theorem State.clearPoison_keyed (s : State) (k n : Nat) : (s.clearPoison k n).keyed = s.keyed := rfl
@[simp] theorem State.clearPoison_empties (s : State) (k n : Nat) : (s.clearPoison k n).empties = s.empties := rfl
@[simp] theorem State.clearPoison_badTags (s : State) (k n : Nat) : (s.clearPoison k n).badTags = s.badTags := rfl
@[simp] theorem State.clearPoison_waiters (s : State) (k n : Nat) : (s.clearPoison k n).waiters = s.waiters := rfl
@[simp] theorem State.clearPoison_held (s : State) (k n : Nat) : (s.clearPoison k n).held = s.held := rfl
@[simp] theorem State.clearPoison_dispensers (s : State) (k n : Nat) : (s.clearPoison k n).dispensers = s.dispensers := rfl
@[simp] theorem State.clearPoison_dir (s : State) (k n : Nat) : (s.clearPoison k n).dir = s.dir := rfl
@[simp] theorem State.clearPoison_cascade (s : State) (k n : Nat) : (s.clearPoison k n).cascade = s.cascade := rfl
@[simp] theorem State.clearPoison_messages (s : State) (k n : Nat) : (s.clearPoison k n).messages = s.messages := rfl
@[simp] theorem State.clearPoison_transits (s : State) (k n : Nat) : (s.clearPoison k n).transits = s.transits := rfl
@[simp] theorem State.clearPoison_moves (s : State) (k n : Nat) : (s.clearPoison k n).moves = s.moves := rfl
@[simp] theorem State.clearPoison_launches (s : State) (k n : Nat) : (s.clearPoison k n).launches = s.launches := rfl
@[simp] theorem State.clearPoison_axes (s : State) (k n : Nat) : (s.clearPoison k n).axes = s.axes := rfl
@[simp] theorem State.clearPoison_tlb2 (s : State) (k n : Nat) : (s.clearPoison k n).tlb2 = s.tlb2 := rfl
@[simp] theorem State.clearPoison_queues (s : State) (k n : Nat) : (s.clearPoison k n).queues = s.queues := rfl
@[simp] theorem State.clearPoison_copies (s : State) (k n : Nat) : (s.clearPoison k n).copies = s.copies := rfl
@[simp] theorem State.clearPoison_modl (s : State) (k n : Nat) : (s.clearPoison k n).modl = s.modl := rfl
@[simp] theorem State.clearPoison_cycle (s : State) (k n : Nat) : (s.clearPoison k n).cycle = s.cycle := rfl
@[simp] theorem State.clearPoison_nextId (s : State) (k n : Nat) : (s.clearPoison k n).nextId = s.nextId := rfl
@[simp] theorem State.clearPoison_freeCtr (s : State) (k n : Nat) : (s.clearPoison k n).freeCtr = s.freeCtr := rfl
@[simp] theorem State.clearPoison_engineTurn (s : State) (k n : Nat) : (s.clearPoison k n).engineTurn = s.engineTurn := rfl
@[simp] theorem State.clearPoison_issueNow (s : State) (k n : Nat) : (s.clearPoison k n).issueNow = s.issueNow := rfl
@[simp] theorem State.clearPoison_inbox (s : State) (k n : Nat) : (s.clearPoison k n).inbox = s.inbox := rfl

@[simp] theorem State.setFull_th (s : State) (k : Nat) (b : Bool) : (s.setFull k b).th = s.th := by
  cases b <;> rfl
@[simp] theorem State.setFull_core (s : State) (k : Nat) (b : Bool) : (s.setFull k b).core = s.core := by
  cases b <;> rfl
@[simp] theorem State.setFull_part (s : State) (k : Nat) (b : Bool) : (s.setFull k b).part = s.part := by
  cases b <;> rfl
@[simp] theorem State.setFull_others (s : State) (k : Nat) (b : Bool) : (s.setFull k b).others = s.others := by
  cases b <;> rfl
@[simp] theorem State.setFull_cores (s : State) (k : Nat) (b : Bool) : (s.setFull k b).cores = s.cores := by
  cases b <;> rfl
@[simp] theorem State.setFull_parts (s : State) (k : Nat) (b : Bool) : (s.setFull k b).parts = s.parts := by
  cases b <;> rfl
@[simp] theorem State.setFull_mem (s : State) (k : Nat) (b : Bool) : (s.setFull k b).mem = s.mem := by
  cases b <;> rfl
@[simp] theorem State.setFull_keyed (s : State) (k : Nat) (b : Bool) : (s.setFull k b).keyed = s.keyed := by
  cases b <;> rfl
@[simp] theorem State.setFull_poison (s : State) (k : Nat) (b : Bool) : (s.setFull k b).poison = s.poison := by
  cases b <;> rfl
@[simp] theorem State.setFull_badTags (s : State) (k : Nat) (b : Bool) : (s.setFull k b).badTags = s.badTags := by
  cases b <;> rfl
@[simp] theorem State.setFull_waiters (s : State) (k : Nat) (b : Bool) : (s.setFull k b).waiters = s.waiters := by
  cases b <;> rfl
@[simp] theorem State.setFull_held (s : State) (k : Nat) (b : Bool) : (s.setFull k b).held = s.held := by
  cases b <;> rfl
@[simp] theorem State.setFull_dispensers (s : State) (k : Nat) (b : Bool) : (s.setFull k b).dispensers = s.dispensers := by
  cases b <;> rfl
@[simp] theorem State.setFull_dir (s : State) (k : Nat) (b : Bool) : (s.setFull k b).dir = s.dir := by
  cases b <;> rfl
@[simp] theorem State.setFull_cascade (s : State) (k : Nat) (b : Bool) : (s.setFull k b).cascade = s.cascade := by
  cases b <;> rfl
@[simp] theorem State.setFull_messages (s : State) (k : Nat) (b : Bool) : (s.setFull k b).messages = s.messages := by
  cases b <;> rfl
@[simp] theorem State.setFull_transits (s : State) (k : Nat) (b : Bool) : (s.setFull k b).transits = s.transits := by
  cases b <;> rfl
@[simp] theorem State.setFull_moves (s : State) (k : Nat) (b : Bool) : (s.setFull k b).moves = s.moves := by
  cases b <;> rfl
@[simp] theorem State.setFull_launches (s : State) (k : Nat) (b : Bool) : (s.setFull k b).launches = s.launches := by
  cases b <;> rfl
@[simp] theorem State.setFull_axes (s : State) (k : Nat) (b : Bool) : (s.setFull k b).axes = s.axes := by
  cases b <;> rfl
@[simp] theorem State.setFull_tlb2 (s : State) (k : Nat) (b : Bool) : (s.setFull k b).tlb2 = s.tlb2 := by
  cases b <;> rfl
@[simp] theorem State.setFull_queues (s : State) (k : Nat) (b : Bool) : (s.setFull k b).queues = s.queues := by
  cases b <;> rfl
@[simp] theorem State.setFull_copies (s : State) (k : Nat) (b : Bool) : (s.setFull k b).copies = s.copies := by
  cases b <;> rfl
@[simp] theorem State.setFull_modl (s : State) (k : Nat) (b : Bool) : (s.setFull k b).modl = s.modl := by
  cases b <;> rfl
@[simp] theorem State.setFull_cycle (s : State) (k : Nat) (b : Bool) : (s.setFull k b).cycle = s.cycle := by
  cases b <;> rfl
@[simp] theorem State.setFull_nextId (s : State) (k : Nat) (b : Bool) : (s.setFull k b).nextId = s.nextId := by
  cases b <;> rfl
@[simp] theorem State.setFull_freeCtr (s : State) (k : Nat) (b : Bool) : (s.setFull k b).freeCtr = s.freeCtr := by
  cases b <;> rfl
@[simp] theorem State.setFull_engineTurn (s : State) (k : Nat) (b : Bool) : (s.setFull k b).engineTurn = s.engineTurn := by
  cases b <;> rfl
@[simp] theorem State.setFull_issueNow (s : State) (k : Nat) (b : Bool) : (s.setFull k b).issueNow = s.issueNow := by
  cases b <;> rfl
@[simp] theorem State.setFull_inbox (s : State) (k : Nat) (b : Bool) : (s.setFull k b).inbox = s.inbox := by
  cases b <;> rfl

@[simp] theorem Thread.counted_tid (t : Thread) : (t.counted).tid = t.tid := rfl
@[simp] theorem Thread.counted_active (t : Thread) : (t.counted).active = t.active := rfl
@[simp] theorem Thread.counted_part (t : Thread) : (t.counted).part = t.part := rfl
@[simp] theorem Thread.counted_w (t : Thread) : (t.counted).w = t.w := rfl
@[simp] theorem Thread.counted_v (t : Thread) : (t.counted).v = t.v := rfl
@[simp] theorem Thread.counted_m (t : Thread) : (t.counted).m = t.m := rfl
@[simp] theorem Thread.counted_pc (t : Thread) : (t.counted).pc = t.pc := rfl
@[simp] theorem Thread.counted_tstat (t : Thread) : (t.counted).tstat = t.tstat := rfl
@[simp] theorem Thread.counted_base (t : Thread) : (t.counted).base = t.base := rfl
@[simp] theorem Thread.counted_trap (t : Thread) : (t.counted).trap = t.trap := rfl
@[simp] theorem Thread.counted_rw (t : Thread) : (t.counted).rw = t.rw := rfl
@[simp] theorem Thread.counted_ax (t : Thread) : (t.counted).ax = t.ax := rfl
@[simp] theorem Thread.counted_ring (t : Thread) : (t.counted).ring = t.ring := rfl
@[simp] theorem Thread.counted_pipe (t : Thread) : (t.counted).pipe = t.pipe := rfl
@[simp] theorem Thread.counted_holding (t : Thread) : (t.counted).holding = t.holding := rfl
@[simp] theorem Thread.counted_holdAddr (t : Thread) : (t.counted).holdAddr = t.holdAddr := rfl
@[simp] theorem Thread.counted_gang (t : Thread) : (t.counted).gang = t.gang := rfl
@[simp] theorem Thread.counted_launch (t : Thread) : (t.counted).launch = t.launch := rfl
@[simp] theorem Thread.counted_home (t : Thread) : (t.counted).home = t.home := rfl

@[simp] theorem Thread.setSt_tid (t : Thread) (b : Nat) (x : Bool) : (t.setSt b x).tid = t.tid := rfl
@[simp] theorem Thread.setSt_active (t : Thread) (b : Nat) (x : Bool) : (t.setSt b x).active = t.active := rfl
@[simp] theorem Thread.setSt_part (t : Thread) (b : Nat) (x : Bool) : (t.setSt b x).part = t.part := rfl
@[simp] theorem Thread.setSt_w (t : Thread) (b : Nat) (x : Bool) : (t.setSt b x).w = t.w := rfl
@[simp] theorem Thread.setSt_v (t : Thread) (b : Nat) (x : Bool) : (t.setSt b x).v = t.v := rfl
@[simp] theorem Thread.setSt_m (t : Thread) (b : Nat) (x : Bool) : (t.setSt b x).m = t.m := rfl
@[simp] theorem Thread.setSt_pc (t : Thread) (b : Nat) (x : Bool) : (t.setSt b x).pc = t.pc := rfl
@[simp] theorem Thread.setSt_base (t : Thread) (b : Nat) (x : Bool) : (t.setSt b x).base = t.base := rfl
@[simp] theorem Thread.setSt_ident (t : Thread) (b : Nat) (x : Bool) : (t.setSt b x).ident = t.ident := rfl
@[simp] theorem Thread.setSt_trap (t : Thread) (b : Nat) (x : Bool) : (t.setSt b x).trap = t.trap := rfl
@[simp] theorem Thread.setSt_rw (t : Thread) (b : Nat) (x : Bool) : (t.setSt b x).rw = t.rw := rfl
@[simp] theorem Thread.setSt_ax (t : Thread) (b : Nat) (x : Bool) : (t.setSt b x).ax = t.ax := rfl
@[simp] theorem Thread.setSt_ring (t : Thread) (b : Nat) (x : Bool) : (t.setSt b x).ring = t.ring := rfl
@[simp] theorem Thread.setSt_pipe (t : Thread) (b : Nat) (x : Bool) : (t.setSt b x).pipe = t.pipe := rfl
@[simp] theorem Thread.setSt_holding (t : Thread) (b : Nat) (x : Bool) : (t.setSt b x).holding = t.holding := rfl
@[simp] theorem Thread.setSt_holdAddr (t : Thread) (b : Nat) (x : Bool) : (t.setSt b x).holdAddr = t.holdAddr := rfl
@[simp] theorem Thread.setSt_gang (t : Thread) (b : Nat) (x : Bool) : (t.setSt b x).gang = t.gang := rfl
@[simp] theorem Thread.setSt_launch (t : Thread) (b : Nat) (x : Bool) : (t.setSt b x).launch = t.launch := rfl
@[simp] theorem Thread.setSt_home (t : Thread) (b : Nat) (x : Bool) : (t.setSt b x).home = t.home := rfl

@[simp] theorem Thread.setPriv_tid (t : Thread) (p : Nat) : (t.setPriv p).tid = t.tid := rfl
@[simp] theorem Thread.setPriv_active (t : Thread) (p : Nat) : (t.setPriv p).active = t.active := rfl
@[simp] theorem Thread.setPriv_part (t : Thread) (p : Nat) : (t.setPriv p).part = t.part := rfl
@[simp] theorem Thread.setPriv_w (t : Thread) (p : Nat) : (t.setPriv p).w = t.w := rfl
@[simp] theorem Thread.setPriv_v (t : Thread) (p : Nat) : (t.setPriv p).v = t.v := rfl
@[simp] theorem Thread.setPriv_m (t : Thread) (p : Nat) : (t.setPriv p).m = t.m := rfl
@[simp] theorem Thread.setPriv_pc (t : Thread) (p : Nat) : (t.setPriv p).pc = t.pc := rfl
@[simp] theorem Thread.setPriv_base (t : Thread) (p : Nat) : (t.setPriv p).base = t.base := rfl
@[simp] theorem Thread.setPriv_ident (t : Thread) (p : Nat) : (t.setPriv p).ident = t.ident := rfl
@[simp] theorem Thread.setPriv_trap (t : Thread) (p : Nat) : (t.setPriv p).trap = t.trap := rfl
@[simp] theorem Thread.setPriv_rw (t : Thread) (p : Nat) : (t.setPriv p).rw = t.rw := rfl
@[simp] theorem Thread.setPriv_ax (t : Thread) (p : Nat) : (t.setPriv p).ax = t.ax := rfl
@[simp] theorem Thread.setPriv_ring (t : Thread) (p : Nat) : (t.setPriv p).ring = t.ring := rfl
@[simp] theorem Thread.setPriv_pipe (t : Thread) (p : Nat) : (t.setPriv p).pipe = t.pipe := rfl
@[simp] theorem Thread.setPriv_holding (t : Thread) (p : Nat) : (t.setPriv p).holding = t.holding := rfl
@[simp] theorem Thread.setPriv_holdAddr (t : Thread) (p : Nat) : (t.setPriv p).holdAddr = t.holdAddr := rfl
@[simp] theorem Thread.setPriv_gang (t : Thread) (p : Nat) : (t.setPriv p).gang = t.gang := rfl
@[simp] theorem Thread.setPriv_launch (t : Thread) (p : Nat) : (t.setPriv p).launch = t.launch := rfl
@[simp] theorem Thread.setPriv_home (t : Thread) (p : Nat) : (t.setPriv p).home = t.home := rfl

@[simp] theorem Thread.tick_tid (t : Thread) : (t.tick).tid = t.tid := rfl
@[simp] theorem Thread.tick_active (t : Thread) : (t.tick).active = t.active := rfl
@[simp] theorem Thread.tick_part (t : Thread) : (t.tick).part = t.part := rfl
@[simp] theorem Thread.tick_w (t : Thread) : (t.tick).w = t.w := rfl
@[simp] theorem Thread.tick_v (t : Thread) : (t.tick).v = t.v := rfl
@[simp] theorem Thread.tick_m (t : Thread) : (t.tick).m = t.m := rfl
@[simp] theorem Thread.tick_pc (t : Thread) : (t.tick).pc = t.pc := rfl
@[simp] theorem Thread.tick_tstat (t : Thread) : (t.tick).tstat = t.tstat := rfl
@[simp] theorem Thread.tick_base (t : Thread) : (t.tick).base = t.base := rfl
@[simp] theorem Thread.tick_ident (t : Thread) : (t.tick).ident = t.ident := rfl
@[simp] theorem Thread.tick_trap (t : Thread) : (t.tick).trap = t.trap := rfl
@[simp] theorem Thread.tick_rw (t : Thread) : (t.tick).rw = t.rw := rfl
@[simp] theorem Thread.tick_ax (t : Thread) : (t.tick).ax = t.ax := rfl
@[simp] theorem Thread.tick_ring (t : Thread) : (t.tick).ring = t.ring := rfl
@[simp] theorem Thread.tick_holding (t : Thread) : (t.tick).holding = t.holding := rfl
@[simp] theorem Thread.tick_holdAddr (t : Thread) : (t.tick).holdAddr = t.holdAddr := rfl
@[simp] theorem Thread.tick_gang (t : Thread) : (t.tick).gang = t.gang := rfl
@[simp] theorem Thread.tick_launch (t : Thread) : (t.tick).launch = t.launch := rfl
@[simp] theorem Thread.tick_home (t : Thread) : (t.tick).home = t.home := rfl

@[simp] theorem Thread.wrv_tid (t : Thread) (r : Reg) (x : Vec) : (t.wrv r x).tid = t.tid := rfl
@[simp] theorem Thread.wrv_active (t : Thread) (r : Reg) (x : Vec) : (t.wrv r x).active = t.active := rfl
@[simp] theorem Thread.wrv_part (t : Thread) (r : Reg) (x : Vec) : (t.wrv r x).part = t.part := rfl
@[simp] theorem Thread.wrv_w (t : Thread) (r : Reg) (x : Vec) : (t.wrv r x).w = t.w := rfl
@[simp] theorem Thread.wrv_m (t : Thread) (r : Reg) (x : Vec) : (t.wrv r x).m = t.m := rfl
@[simp] theorem Thread.wrv_pc (t : Thread) (r : Reg) (x : Vec) : (t.wrv r x).pc = t.pc := rfl
@[simp] theorem Thread.wrv_base (t : Thread) (r : Reg) (x : Vec) : (t.wrv r x).base = t.base := rfl
@[simp] theorem Thread.wrv_ident (t : Thread) (r : Reg) (x : Vec) : (t.wrv r x).ident = t.ident := rfl
@[simp] theorem Thread.wrv_trap (t : Thread) (r : Reg) (x : Vec) : (t.wrv r x).trap = t.trap := rfl
@[simp] theorem Thread.wrv_rw (t : Thread) (r : Reg) (x : Vec) : (t.wrv r x).rw = t.rw := rfl
@[simp] theorem Thread.wrv_ax (t : Thread) (r : Reg) (x : Vec) : (t.wrv r x).ax = t.ax := rfl
@[simp] theorem Thread.wrv_ring (t : Thread) (r : Reg) (x : Vec) : (t.wrv r x).ring = t.ring := rfl
@[simp] theorem Thread.wrv_pipe (t : Thread) (r : Reg) (x : Vec) : (t.wrv r x).pipe = t.pipe := rfl
@[simp] theorem Thread.wrv_holding (t : Thread) (r : Reg) (x : Vec) : (t.wrv r x).holding = t.holding := rfl
@[simp] theorem Thread.wrv_holdAddr (t : Thread) (r : Reg) (x : Vec) : (t.wrv r x).holdAddr = t.holdAddr := rfl
@[simp] theorem Thread.wrv_gang (t : Thread) (r : Reg) (x : Vec) : (t.wrv r x).gang = t.gang := rfl
@[simp] theorem Thread.wrv_launch (t : Thread) (r : Reg) (x : Vec) : (t.wrv r x).launch = t.launch := rfl
@[simp] theorem Thread.wrv_home (t : Thread) (r : Reg) (x : Vec) : (t.wrv r x).home = t.home := rfl

@[simp] theorem Thread.leave_tid (t : Thread) : (t.leave).tid = t.tid := rfl
@[simp] theorem Thread.leave_active (t : Thread) : (t.leave).active = t.active := rfl
@[simp] theorem Thread.leave_part (t : Thread) : (t.leave).part = t.part := rfl
@[simp] theorem Thread.leave_w (t : Thread) : (t.leave).w = t.w := rfl
@[simp] theorem Thread.leave_v (t : Thread) : (t.leave).v = t.v := rfl
@[simp] theorem Thread.leave_m (t : Thread) : (t.leave).m = t.m := rfl
@[simp] theorem Thread.leave_base (t : Thread) : (t.leave).base = t.base := rfl
@[simp] theorem Thread.leave_ident (t : Thread) : (t.leave).ident = t.ident := rfl
@[simp] theorem Thread.leave_trap (t : Thread) : (t.leave).trap = t.trap := rfl
@[simp] theorem Thread.leave_rw (t : Thread) : (t.leave).rw = t.rw := rfl
@[simp] theorem Thread.leave_ax (t : Thread) : (t.leave).ax = t.ax := rfl
@[simp] theorem Thread.leave_ring (t : Thread) : (t.leave).ring = t.ring := rfl
@[simp] theorem Thread.leave_pipe (t : Thread) : (t.leave).pipe = t.pipe := rfl
@[simp] theorem Thread.leave_holding (t : Thread) : (t.leave).holding = t.holding := rfl
@[simp] theorem Thread.leave_holdAddr (t : Thread) : (t.leave).holdAddr = t.holdAddr := rfl
@[simp] theorem Thread.leave_gang (t : Thread) : (t.leave).gang = t.gang := rfl
@[simp] theorem Thread.leave_launch (t : Thread) : (t.leave).launch = t.launch := rfl
@[simp] theorem Thread.leave_home (t : Thread) : (t.leave).home = t.home := rfl

@[simp] theorem Thread.enter_tid (t : Thread) (c : Cause) : (t.enter c).tid = t.tid := rfl
@[simp] theorem Thread.enter_active (t : Thread) (c : Cause) : (t.enter c).active = t.active := rfl
@[simp] theorem Thread.enter_part (t : Thread) (c : Cause) : (t.enter c).part = t.part := rfl
@[simp] theorem Thread.enter_w (t : Thread) (c : Cause) : (t.enter c).w = t.w := rfl
@[simp] theorem Thread.enter_v (t : Thread) (c : Cause) : (t.enter c).v = t.v := rfl
@[simp] theorem Thread.enter_m (t : Thread) (c : Cause) : (t.enter c).m = t.m := rfl
@[simp] theorem Thread.enter_base (t : Thread) (c : Cause) : (t.enter c).base = t.base := rfl
@[simp] theorem Thread.enter_ident (t : Thread) (c : Cause) : (t.enter c).ident = t.ident := rfl
@[simp] theorem Thread.enter_rw (t : Thread) (c : Cause) : (t.enter c).rw = t.rw := rfl
@[simp] theorem Thread.enter_ax (t : Thread) (c : Cause) : (t.enter c).ax = t.ax := rfl
@[simp] theorem Thread.enter_ring (t : Thread) (c : Cause) : (t.enter c).ring = t.ring := rfl
@[simp] theorem Thread.enter_holding (t : Thread) (c : Cause) : (t.enter c).holding = t.holding := rfl
@[simp] theorem Thread.enter_holdAddr (t : Thread) (c : Cause) : (t.enter c).holdAddr = t.holdAddr := rfl
@[simp] theorem Thread.enter_gang (t : Thread) (c : Cause) : (t.enter c).gang = t.gang := rfl
@[simp] theorem Thread.enter_launch (t : Thread) (c : Cause) : (t.enter c).launch = t.launch := rfl
@[simp] theorem Thread.enter_home (t : Thread) (c : Cause) : (t.enter c).home = t.home := rfl

@[simp] theorem Thread.tick_pipe_held (t : Thread) : t.tick.pipe.held = t.pipe.held := rfl
@[simp] theorem Thread.tick_pipe_park (t : Thread) : t.tick.pipe.park = t.pipe.park := rfl
@[simp] theorem Thread.tick_pipe_parkedAt (t : Thread) : t.tick.pipe.parkedAt = t.pipe.parkedAt := rfl
@[simp] theorem Thread.tick_pipe_parkSeq (t : Thread) : t.tick.pipe.parkSeq = t.pipe.parkSeq := rfl
@[simp] theorem Thread.tick_pipe_plainOut (t : Thread) : t.tick.pipe.plainOut = t.pipe.plainOut := rfl
@[simp] theorem Thread.tick_pipe_posted (t : Thread) : t.tick.pipe.posted = t.pipe.posted := rfl
@[simp] theorem Thread.tick_pipe_fence (t : Thread) : t.tick.pipe.fence = t.pipe.fence := rfl
@[simp] theorem Thread.tick_pipe_peerPosts (t : Thread) : t.tick.pipe.peerPosts = t.pipe.peerPosts := rfl
@[simp] theorem Thread.tick_pipe_lost (t : Thread) : t.tick.pipe.lost = t.pipe.lost := rfl
@[simp] theorem Thread.tick_pipe_mmaWait (t : Thread) : t.tick.pipe.mmaWait = t.pipe.mmaWait := rfl
@[simp] theorem Thread.tick_pipe_matrixWait (t : Thread) : t.tick.pipe.matrixWait = t.pipe.matrixWait := rfl
@[simp] theorem Thread.tick_pipe_yieldUntil (t : Thread) : t.tick.pipe.yieldUntil = t.pipe.yieldUntil := rfl
@[simp] theorem Thread.tick_pipe_ebud (t : Thread) : t.tick.pipe.ebud = t.pipe.ebud := rfl
@[simp] theorem Thread.tick_pipe_vecIssued (t : Thread) : t.tick.pipe.vecIssued = t.pipe.vecIssued := rfl
@[simp] theorem Thread.tick_pipe_starved (t : Thread) : t.tick.pipe.starved = t.pipe.starved := rfl
@[simp] theorem Thread.tick_pipe_inFrame (t : Thread) : t.tick.pipe.inFrame = t.pipe.inFrame := rfl
@[simp] theorem Thread.tick_pipe_frame (t : Thread) : t.tick.pipe.frame = t.pipe.frame := rfl
@[simp] theorem Thread.tick_pipe_async (t : Thread) : t.tick.pipe.async = t.pipe.async := rfl
@[simp] theorem Thread.tick_pipe_trapDue (t : Thread) : t.tick.pipe.trapDue = t.pipe.trapDue := rfl
@[simp] theorem Thread.tick_pipe_turn (t : Thread) : t.tick.pipe.turn = t.pipe.turn := rfl
@[simp] theorem Thread.tick_pipe_record (t : Thread) : t.tick.pipe.record = t.pipe.record := rfl
@[simp] theorem Thread.tick_pipe_irq (t : Thread) : t.tick.pipe.irq = t.pipe.irq := rfl

@[simp] theorem Thread.wr_tid (t : Thread) (r : Reg) (x : Word) : (t.wr r x).tid = t.tid := by
  unfold Thread.wr; split <;> rfl
@[simp] theorem Thread.wr_active (t : Thread) (r : Reg) (x : Word) : (t.wr r x).active = t.active := by
  unfold Thread.wr; split <;> rfl
@[simp] theorem Thread.wr_part (t : Thread) (r : Reg) (x : Word) : (t.wr r x).part = t.part := by
  unfold Thread.wr; split <;> rfl
@[simp] theorem Thread.wr_v (t : Thread) (r : Reg) (x : Word) : (t.wr r x).v = t.v := by
  unfold Thread.wr; split <;> rfl
@[simp] theorem Thread.wr_m (t : Thread) (r : Reg) (x : Word) : (t.wr r x).m = t.m := by
  unfold Thread.wr; split <;> rfl
@[simp] theorem Thread.wr_pc (t : Thread) (r : Reg) (x : Word) : (t.wr r x).pc = t.pc := by
  unfold Thread.wr; split <;> rfl
@[simp] theorem Thread.wr_tstat (t : Thread) (r : Reg) (x : Word) : (t.wr r x).tstat = t.tstat := by
  unfold Thread.wr; split <;> rfl
@[simp] theorem Thread.wr_base (t : Thread) (r : Reg) (x : Word) : (t.wr r x).base = t.base := by
  unfold Thread.wr; split <;> rfl
@[simp] theorem Thread.wr_ident (t : Thread) (r : Reg) (x : Word) : (t.wr r x).ident = t.ident := by
  unfold Thread.wr; split <;> rfl
@[simp] theorem Thread.wr_trap (t : Thread) (r : Reg) (x : Word) : (t.wr r x).trap = t.trap := by
  unfold Thread.wr; split <;> rfl
@[simp] theorem Thread.wr_rw (t : Thread) (r : Reg) (x : Word) : (t.wr r x).rw = t.rw := by
  unfold Thread.wr; split <;> rfl
@[simp] theorem Thread.wr_ax (t : Thread) (r : Reg) (x : Word) : (t.wr r x).ax = t.ax := by
  unfold Thread.wr; split <;> rfl
@[simp] theorem Thread.wr_ring (t : Thread) (r : Reg) (x : Word) : (t.wr r x).ring = t.ring := by
  unfold Thread.wr; split <;> rfl
@[simp] theorem Thread.wr_pipe (t : Thread) (r : Reg) (x : Word) : (t.wr r x).pipe = t.pipe := by
  unfold Thread.wr; split <;> rfl
@[simp] theorem Thread.wr_holding (t : Thread) (r : Reg) (x : Word) : (t.wr r x).holding = t.holding := by
  unfold Thread.wr; split <;> rfl
@[simp] theorem Thread.wr_holdAddr (t : Thread) (r : Reg) (x : Word) : (t.wr r x).holdAddr = t.holdAddr := by
  unfold Thread.wr; split <;> rfl
@[simp] theorem Thread.wr_gang (t : Thread) (r : Reg) (x : Word) : (t.wr r x).gang = t.gang := by
  unfold Thread.wr; split <;> rfl
@[simp] theorem Thread.wr_launch (t : Thread) (r : Reg) (x : Word) : (t.wr r x).launch = t.launch := by
  unfold Thread.wr; split <;> rfl
@[simp] theorem Thread.wr_home (t : Thread) (r : Reg) (x : Word) : (t.wr r x).home = t.home := by
  unfold Thread.wr; split <;> rfl

@[simp] theorem Thread.wrm_tid (t : Thread) (r : BitVec 2) (x : Word) : (t.wrm r x).tid = t.tid := by
  unfold Thread.wrm; split <;> rfl
@[simp] theorem Thread.wrm_active (t : Thread) (r : BitVec 2) (x : Word) : (t.wrm r x).active = t.active := by
  unfold Thread.wrm; split <;> rfl
@[simp] theorem Thread.wrm_part (t : Thread) (r : BitVec 2) (x : Word) : (t.wrm r x).part = t.part := by
  unfold Thread.wrm; split <;> rfl
@[simp] theorem Thread.wrm_w (t : Thread) (r : BitVec 2) (x : Word) : (t.wrm r x).w = t.w := by
  unfold Thread.wrm; split <;> rfl
@[simp] theorem Thread.wrm_v (t : Thread) (r : BitVec 2) (x : Word) : (t.wrm r x).v = t.v := by
  unfold Thread.wrm; split <;> rfl
@[simp] theorem Thread.wrm_pc (t : Thread) (r : BitVec 2) (x : Word) : (t.wrm r x).pc = t.pc := by
  unfold Thread.wrm; split <;> rfl
@[simp] theorem Thread.wrm_base (t : Thread) (r : BitVec 2) (x : Word) : (t.wrm r x).base = t.base := by
  unfold Thread.wrm; split <;> rfl
@[simp] theorem Thread.wrm_ident (t : Thread) (r : BitVec 2) (x : Word) : (t.wrm r x).ident = t.ident := by
  unfold Thread.wrm; split <;> rfl
@[simp] theorem Thread.wrm_trap (t : Thread) (r : BitVec 2) (x : Word) : (t.wrm r x).trap = t.trap := by
  unfold Thread.wrm; split <;> rfl
@[simp] theorem Thread.wrm_rw (t : Thread) (r : BitVec 2) (x : Word) : (t.wrm r x).rw = t.rw := by
  unfold Thread.wrm; split <;> rfl
@[simp] theorem Thread.wrm_ax (t : Thread) (r : BitVec 2) (x : Word) : (t.wrm r x).ax = t.ax := by
  unfold Thread.wrm; split <;> rfl
@[simp] theorem Thread.wrm_ring (t : Thread) (r : BitVec 2) (x : Word) : (t.wrm r x).ring = t.ring := by
  unfold Thread.wrm; split <;> rfl
@[simp] theorem Thread.wrm_pipe (t : Thread) (r : BitVec 2) (x : Word) : (t.wrm r x).pipe = t.pipe := by
  unfold Thread.wrm; split <;> rfl
@[simp] theorem Thread.wrm_holding (t : Thread) (r : BitVec 2) (x : Word) : (t.wrm r x).holding = t.holding := by
  unfold Thread.wrm; split <;> rfl
@[simp] theorem Thread.wrm_holdAddr (t : Thread) (r : BitVec 2) (x : Word) : (t.wrm r x).holdAddr = t.holdAddr := by
  unfold Thread.wrm; split <;> rfl
@[simp] theorem Thread.wrm_gang (t : Thread) (r : BitVec 2) (x : Word) : (t.wrm r x).gang = t.gang := by
  unfold Thread.wrm; split <;> rfl
@[simp] theorem Thread.wrm_launch (t : Thread) (r : BitVec 2) (x : Word) : (t.wrm r x).launch = t.launch := by
  unfold Thread.wrm; split <;> rfl
@[simp] theorem Thread.wrm_home (t : Thread) (r : BitVec 2) (x : Word) : (t.wrm r x).home = t.home := by
  unfold Thread.wrm; split <;> rfl

@[simp] theorem Thread.step4_tid (t : Thread) : t.step4.tid = t.tid := by
  unfold Thread.step4; dsimp only; split <;> (try split) <;> (try split) <;> rfl
@[simp] theorem Thread.step4_active (t : Thread) : t.step4.active = t.active := by
  unfold Thread.step4; dsimp only; split <;> (try split) <;> (try split) <;> rfl
@[simp] theorem Thread.step4_part (t : Thread) : t.step4.part = t.part := by
  unfold Thread.step4; dsimp only; split <;> (try split) <;> (try split) <;> rfl
@[simp] theorem Thread.step4_w (t : Thread) : t.step4.w = t.w := by
  unfold Thread.step4; dsimp only; split <;> (try split) <;> (try split) <;> rfl
@[simp] theorem Thread.step4_v (t : Thread) : t.step4.v = t.v := by
  unfold Thread.step4; dsimp only; split <;> (try split) <;> (try split) <;> rfl
@[simp] theorem Thread.step4_m (t : Thread) : t.step4.m = t.m := by
  unfold Thread.step4; dsimp only; split <;> (try split) <;> (try split) <;> rfl
@[simp] theorem Thread.step4_tstat (t : Thread) : t.step4.tstat = t.tstat := by
  unfold Thread.step4; dsimp only; split <;> (try split) <;> (try split) <;> rfl
@[simp] theorem Thread.step4_base (t : Thread) : t.step4.base = t.base := by
  unfold Thread.step4; dsimp only; split <;> (try split) <;> (try split) <;> rfl
@[simp] theorem Thread.step4_ident (t : Thread) : t.step4.ident = t.ident := by
  unfold Thread.step4; dsimp only; split <;> (try split) <;> (try split) <;> rfl
@[simp] theorem Thread.step4_rw (t : Thread) : t.step4.rw = t.rw := by
  unfold Thread.step4; dsimp only; split <;> (try split) <;> (try split) <;> rfl
@[simp] theorem Thread.step4_ax (t : Thread) : t.step4.ax = t.ax := by
  unfold Thread.step4; dsimp only; split <;> (try split) <;> (try split) <;> rfl
@[simp] theorem Thread.step4_ring (t : Thread) : t.step4.ring = t.ring := by
  unfold Thread.step4; dsimp only; split <;> (try split) <;> (try split) <;> rfl
@[simp] theorem Thread.step4_holding (t : Thread) : t.step4.holding = t.holding := by
  unfold Thread.step4; dsimp only; split <;> (try split) <;> (try split) <;> rfl
@[simp] theorem Thread.step4_holdAddr (t : Thread) : t.step4.holdAddr = t.holdAddr := by
  unfold Thread.step4; dsimp only; split <;> (try split) <;> (try split) <;> rfl
@[simp] theorem Thread.step4_gang (t : Thread) : t.step4.gang = t.gang := by
  unfold Thread.step4; dsimp only; split <;> (try split) <;> (try split) <;> rfl
@[simp] theorem Thread.step4_launch (t : Thread) : t.step4.launch = t.launch := by
  unfold Thread.step4; dsimp only; split <;> (try split) <;> (try split) <;> rfl
@[simp] theorem Thread.step4_home (t : Thread) : t.step4.home = t.home := by
  unfold Thread.step4; dsimp only; split <;> (try split) <;> (try split) <;> rfl

end Sys2Proof.Machine
end

