-- ==== Sys2Proof/Laws/Registers.lean ====
section
/-! SUPPORT. Reading a register after a write, in a thread and in the state (04_threads.md R54), and what passing an
instruction leaves as it was. -/
namespace Sys2Proof.Machine

@[simp] theorem Thread.rd_zero (t : Thread) : t.rd 0 = 0 := rfl

theorem Thread.rd_wr_self (t : Thread) (r : Reg) (x : Word) (h : r ≠ 0) : (t.wr r x).rd r = x := by
  unfold Thread.rd Thread.wr
  rw [if_neg h, if_neg h]
  simp

theorem Thread.rd_wr_ne (t : Thread) (r e : Reg) (x : Word) (h : e ≠ r) : (t.wr r x).rd e = t.rd e := by
  have hn : r.toNat ≠ e.toNat := fun he => h (BitVec.eq_of_toNat_eq he.symm)
  unfold Thread.rd Thread.wr
  split
  · rfl
  · split
    · rfl
    · exact Vector.getElem_set_ne (by omega) (by omega) hn

@[simp] theorem Thread.wr_zero (t : Thread) (x : Word) : t.wr 0 x = t := rfl

theorem Thread.rdv_wrv_self (t : Thread) (r : Reg) (x : Vec) : (t.wrv r x).rdv r = x := by
  simp [Thread.rdv, Thread.wrv]

theorem Thread.rdv_wrv_ne (t : Thread) (r e : Reg) (x : Vec) (h : e ≠ r) : (t.wrv r x).rdv e = t.rdv e := by
  have hn : r.toNat ≠ e.toNat := fun he => h (BitVec.eq_of_toNat_eq he.symm)
  simp [Thread.rdv, Thread.wrv, Vector.getElem_set_ne _ _ hn]

@[simp] theorem Thread.rdm_zero (t : Thread) : t.rdm 0 = allOnes := rfl

theorem Thread.rdm_wrm_self (t : Thread) (r : BitVec 2) (x : Word) (h : r ≠ 0) : (t.wrm r x).rdm r = x := by
  unfold Thread.rdm Thread.wrm
  rw [if_neg h, if_neg h]
  simp

theorem Thread.rdm_wrm_ne (t : Thread) (r e : BitVec 2) (x : Word) (h : e ≠ r) : (t.wrm r x).rdm e = t.rdm e := by
  have hn : r.toNat ≠ e.toNat := fun he => h (BitVec.eq_of_toNat_eq he.symm)
  unfold Thread.rdm Thread.wrm
  split
  · rfl
  · split
    · rfl
    · exact Vector.getElem_set_ne (by omega) (by omega) hn

/-! ### The current thread's registers -/

@[simp] theorem State.rd_mapTh (s : State) (f : Thread → Thread) (r : Reg) : (s.mapTh f).rd r = (f s.th).rd r := rfl
@[simp] theorem State.rdv_mapTh (s : State) (f : Thread → Thread) (r : Reg) : (s.mapTh f).rdv r = (f s.th).rdv r := rfl
@[simp] theorem State.rdm_mapTh (s : State) (f : Thread → Thread) (r : BitVec 2) : (s.mapTh f).rdm r = (f s.th).rdm r := rfl

/-- Registers are read from w alone. -/
theorem Thread.rd_congr {t u : Thread} (h : t.w = u.w) (r : Reg) : t.rd r = u.rd r := by simp [Thread.rd, h]

@[simp] theorem Thread.rd_tick (t : Thread) (r : Reg) : t.tick.rd r = t.rd r := rfl
@[simp] theorem Thread.rd_counted (t : Thread) (r : Reg) : t.counted.rd r = t.rd r := rfl
@[simp] theorem Thread.rd_step4 (t : Thread) (r : Reg) : t.step4.rd r = t.rd r := Thread.rd_congr (Thread.step4_w t) r
@[simp] theorem Thread.rdm_tick (t : Thread) (r : BitVec 2) : t.tick.rdm r = t.rdm r := rfl
@[simp] theorem Thread.rdv_tick (t : Thread) (r : Reg) : t.tick.rdv r = t.rdv r := rfl

/-! ### Passing an instruction -/

/-- Writing a register and passing the instruction commute. -/
theorem Thread.step4_wr (t : Thread) (r : Reg) (x : Word) :
    (t.wr r x).step4 = { t.step4 with w := (t.wr r x).w } := by
  unfold Thread.step4 Thread.wr
  by_cases h : r = 0 <;> simp only [h, if_true, if_false] <;> split <;> (try split) <;> (try split) <;> rfl

@[simp] theorem Thread.passed_w (t : Thread) : t.passed.w = t.w := Thread.step4_w t.tick
@[simp] theorem Thread.rd_passed (t : Thread) (r : Reg) : t.passed.rd r = t.rd r := Thread.rd_congr (Thread.passed_w t) r

theorem State.advance_eq (s : State) : s.advance = { s with th := s.th.step4.counted } := rfl

end Sys2Proof.Machine
end

