-- ==== Sys2Proof/Laws/Issue.lean ====
section
/-! SUPPORT. What the shared plan of a meaning does (`issue`, `simple`), said once: an instruction that is free of open
windows takes its effect, a privileged or state-dependent cause and a violation are trapped, and the meanings of the
register instructions put their result. -/
namespace Sys2Proof.Machine

theorem mem_wRegs {q : BitVec 5} {rs : List Reg} : q ∈ wRegs rs ↔ ∃ r ∈ rs, r ≠ 0 ∧ wReg r = q := by
  simp only [wRegs, List.mem_map, List.mem_filter, decide_eq_true_eq]
  constructor
  · rintro ⟨r, ⟨h1, h2⟩, h3⟩; exact ⟨r, h1, h2, h3⟩
  · rintro ⟨r, h1, h2, h3⟩; exact ⟨r, ⟨h1, h2⟩, h3⟩

/-- A free instruction is no lookahead violation. -/
theorem State.Free.violation {s : State} {rs : List Reg} (h : s.Free rs) (w : Word) : s.th.violation (wRegs rs) w = none := by
  simp only [Thread.violation, Option.map_eq_none_iff, List.find?_eq_none, Bool.and_eq_true, decide_eq_true_eq,
    List.contains_iff_mem, not_and]
  intro p hp hl hq
  obtain ⟨r, hr, h0, he⟩ := mem_wRegs.1 hq
  exact h p hp hl r hr h0 he.symm

theorem violation_nil (t : Thread) (w : Word) : t.violation [] w = none := by
  simp [Thread.violation]

/-- An instruction that is free of open windows and has no cause of its own takes its effect. -/
theorem issue_free {i : Instr} {s : State} {rs : List Reg} {body : State → Effort} (h : s.Free rs) :
    issue i s none (wRegs rs) body = (body (s.mapTh Thread.tick)).outcome s := by
  simp only [issue, h.violation]

/-- An instruction that names no register violates no window. -/
theorem issue_nil {i : Instr} {s : State} {body : State → Effort} :
    issue i s none [] body = (body (s.mapTh Thread.tick)).outcome s := by
  simp only [issue, violation_nil]

@[simp] theorem Effort.outcome_done (s t : State) : (Effort.done t).outcome s = .next t := rfl
@[simp] theorem Effort.outcome_trap (s : State) (c : Cause) : (Effort.trap c).outcome s = .next (s.takeTrap c) := rfl

theorem Effort.outcome_completes (s : State) (e : Effort) : Completes (e.outcome s) := by
  cases e <;> exact ⟨_, rfl⟩

/-- A cause of privilege or state comes before everything else. -/
theorem issue_pre {i : Instr} {s : State} {c : Cause} {regs : List (BitVec 5)} {body : State → Effort} :
    issue i s (some c) regs body = .next (s.takeTrap c) := rfl

theorem simple_free {i : Instr} {s : State} {rs : List Reg} {f : State → State} (h : s.Free rs) :
    simple i s (wRegs rs) f = .next (f (s.mapTh Thread.tick)) := by
  rw [simple, issue_free h]
  rfl

/-- Every instruction that runs by the plan answers a next state. -/
theorem issue_completes (i : Instr) (s : State) (pre : Option Cause) (regs : List (BitVec 5)) (body : State → Effort) :
    Completes (issue i s pre regs body) := by
  unfold issue
  split
  · exact ⟨_, rfl⟩
  · split
    · exact ⟨_, rfl⟩
    · exact Effort.outcome_completes _ _

/-! ### Register instructions -/

/-- Writing w[d] and passing the instruction puts the value. -/
theorem puts_wr (s : State) (d : Reg) (x : Word) : Puts (.next ((s.mapTh Thread.tick).wr d x).advance) s d x := by
  have hw : (((s.mapTh Thread.tick).wr d x).advance).th.w = (s.th.wr d x).w := by
    show ((s.th.tick.wr d x).step4.counted).w = _
    rw [Thread.step4_wr]
    simp only [Thread.counted, Thread.wr]
    split <;> rfl
  refine ⟨_, rfl, ?_, ?_, fun _ => rfl, ?_⟩
  · intro hd
    exact (Thread.rd_congr hw d).trans (Thread.rd_wr_self _ _ _ hd)
  · intro e he
    exact (Thread.rd_congr hw e).trans (Thread.rd_wr_ne _ _ _ _ he)
  · show ({ s with th := (s.th.tick.wr d x).step4.counted } : State) = { s with th := { s.th.passed with w := (s.th.tick.wr d x).step4.counted.w } }
    rw [Thread.step4_wr]
    rfl

theorem alu3_puts {i : Instr} {d a b : Reg} {f : Word → Word → Word} {s : State} (h : s.Free [d, a, b]) :
    Puts (alu3 i d a b f s) s d (f (s.rd a) (s.rd b)) := by
  rw [alu3, simple_free h]
  exact puts_wr s d _

theorem alu2_puts {i : Instr} {d a : Reg} {f : Word → Word} {s : State} (h : s.Free [d, a]) :
    Puts (alu2 i d a f s) s d (f (s.rd a)) := by
  rw [alu2, simple_free h]
  exact puts_wr s d _

end Sys2Proof.Machine
end

