-- ==== Sys2Proof/Laws/Memory.lean ====
section
/-! SUPPORT. Memory in canonical form: every operation keeps the form, and a read after a write gives what was written at
its own address and what was there at any other. -/
namespace Sys2Proof.Machine

/-- Every entry lies above `a`. -/
def Mem.above (a : Nat) (m : Mem) : Prop := ∀ c ∈ m, a < c.1

theorem Mem.wf_cons (a : Nat) (b : Byte) (m : Mem) :
    Mem.wf ((a, b) :: m) = true ↔ b ≠ unwritten ∧ Mem.above a m ∧ Mem.wf m = true := by
  induction m generalizing a b with
  | nil => simp [Mem.wf, Mem.above]
  | cons c m ih =>
    obtain ⟨a', b'⟩ := c
    have := ih a' b'
    constructor
    · intro h
      simp only [Mem.wf, Bool.and_eq_true, bne_iff_ne, decide_eq_true_eq] at h
      refine ⟨h.1.1, ?_, h.2⟩
      intro c hc
      rcases List.mem_cons.1 hc with rfl | hc
      · exact h.1.2
      · exact Nat.lt_trans h.1.2 ((this.1 h.2).2.1 c hc)
    · rintro ⟨h1, h2, h3⟩
      simp only [Mem.wf, Bool.and_eq_true, bne_iff_ne, decide_eq_true_eq]
      exact ⟨⟨h1, h2 (a', b') (by simp)⟩, h3⟩

theorem Mem.read_above {a k : Nat} {m : Mem} (h : Mem.above a m) (hk : k ≤ a) : m.read k = unwritten := by
  cases m with
  | nil => rfl
  | cons c m =>
    have := h c (by simp)
    obtain ⟨a', b'⟩ := c
    simp only at this
    simp [Mem.read, show k ≠ a' by omega, show k < a' by omega]

theorem Mem.write_mem {m : Mem} {a : Nat} {b : Byte} {c : Host.Cell} (h : c ∈ m.write a b) : c ∈ m ∨ c = (a, b) := by
  induction m with
  | nil =>
    simp only [Mem.write, Mem.cons] at h
    split at h <;> simp_all
  | cons d m ih =>
    obtain ⟨a', b'⟩ := d
    simp only [Mem.write, Mem.cons] at h
    by_cases h1 : a = a'
    · rw [if_pos h1] at h
      split at h
      · exact .inl (List.mem_cons_of_mem _ h)
      · rcases List.mem_cons.1 h with rfl | h
        · exact .inr rfl
        · exact .inl (List.mem_cons_of_mem _ h)
    · rw [if_neg h1] at h
      split at h
      · split at h
        · exact .inl h
        · rcases List.mem_cons.1 h with rfl | h
          · exact .inr rfl
          · exact .inl h
      · rcases List.mem_cons.1 h with rfl | h
        · simp
        · rcases ih h with h | h <;> simp [h]

/-- A write keeps the canonical form. -/
theorem Mem.write_wf {m : Mem} (h : m.wf = true) (a : Nat) (b : Byte) : (m.write a b).wf = true := by
  induction m with
  | nil =>
    simp only [Mem.write, Mem.cons]
    split
    · rfl
    · simp_all [Mem.wf]
  | cons d m ih =>
    obtain ⟨a', b'⟩ := d
    obtain ⟨h1, h2, h3⟩ := (Mem.wf_cons _ _ _).1 h
    simp only [Mem.write, Mem.cons]
    split
    · subst a'
      split
      · exact h3
      · rename_i hb; exact (Mem.wf_cons _ _ _).2 ⟨hb, h2, h3⟩
    · split
      · split
        · exact h
        · rename_i hlt hb
          refine (Mem.wf_cons _ _ _).2 ⟨hb, ?_, h⟩
          intro c hc
          rcases List.mem_cons.1 hc with rfl | hc
          · exact hlt
          · exact Nat.lt_trans hlt (h2 c hc)
      · refine (Mem.wf_cons _ _ _).2 ⟨h1, ?_, ih h3⟩
        intro c hc
        rcases Mem.write_mem hc with hc | rfl
        · exact h2 c hc
        · simp only; omega

/-- A read after a write. -/
theorem Mem.read_write {m : Mem} (h : m.wf = true) (a k : Nat) (b : Byte) :
    (m.write a b).read k = if k = a then b else m.read k := by
  induction m with
  | nil =>
    simp only [Mem.write, Mem.cons]
    split <;> simp_all [Mem.read]
  | cons d m ih =>
    obtain ⟨a', b'⟩ := d
    obtain ⟨h1, h2, h3⟩ := (Mem.wf_cons _ _ _).1 h
    simp only [Mem.write, Mem.cons]
    split
    · subst a'
      split
      · rename_i hb
        by_cases hk : k = a
        · subst hk; simp [Mem.read_above h2, hb]
        · by_cases hl : k < a
          · simp [Mem.read, hk, hl, Mem.read_above h2 (Nat.le_of_lt hl)]
          · simp [Mem.read, hk, hl]
      · by_cases hk : k = a <;> simp [Mem.read, hk]
    · split
      · rename_i hne hlt
        have hab : Mem.above a ((a', b') :: m) := by
          intro c hc
          rcases List.mem_cons.1 hc with rfl | hc
          · exact hlt
          · exact Nat.lt_trans hlt (h2 c hc)
        split
        · rename_i hb
          by_cases hk : k = a
          · subst hk; simp [Mem.read_above hab, hb]
          · simp [hk]
        · by_cases hk : k = a
          · simp [Mem.read, hk]
          · by_cases hl : k < a
            · rw [Mem.read_above hab (Nat.le_of_lt hl)]
              simp [Mem.read, hk, hl]
            · rw [show Mem.read ((a, b) :: (a', b') :: m) k = Mem.read ((a', b') :: m) k by
                conv => lhs; rw [Mem.read]
                simp [hk, hl]]
              simp [hk]
      · rename_i hne hnl
        by_cases hka : k = a'
        · subst hka; simp [Mem.read, show k ≠ a by omega]
        · by_cases hl : k < a'
          · simp [Mem.read, hka, hl, show k ≠ a by omega]
          · simp [Mem.read, hka, hl, ih h3]

theorem Mem.writeN_wf {m : Mem} (h : m.wf = true) (a n v : Nat) : (m.writeN a n v).wf = true := by
  induction n generalizing m a v with
  | zero => exact h
  | succ n ih => exact ih (Mem.write_wf h _ _) _ _

theorem Mem.writeList_wf {m : Mem} (h : m.wf = true) (a : Nat) (bs : List Byte) : (m.writeList a bs).wf = true := by
  induction bs generalizing m a with
  | nil => exact h
  | cons b bs ih => exact ih (Mem.write_wf h _ _) _

/-- A read after a write of `n` bytes, little-endian. -/
theorem Mem.read_writeN {m : Mem} (h : m.wf = true) (a n v k : Nat) :
    (m.writeN a n v).read k = if a ≤ k ∧ k < a + n then BitVec.ofNat 8 (v / 256 ^ (k - a)) else m.read k := by
  induction n generalizing m a v with
  | zero => simp only [Mem.writeN]; rw [if_neg (by omega)]
  | succ n ih =>
    rw [Mem.writeN, ih (Mem.write_wf h _ _), Mem.read_write h]
    by_cases hk : k = a
    · subst hk
      rw [if_neg (by omega), if_pos rfl, if_pos (by omega)]
      simp
    · by_cases hin : a + 1 ≤ k ∧ k < a + 1 + n
      · rw [if_pos hin, if_pos (by omega), Nat.div_div_eq_div_mul, ← Nat.pow_succ',
          show (k - (a + 1)).succ = k - a by omega]
      · rw [if_neg hin, if_neg hk, if_neg (by omega)]

theorem Mem.filter_wf {m : Mem} (h : m.wf = true) (p : Host.Cell → Bool) : Mem.wf (m.filter p) = true := by
  induction m with
  | nil => rfl
  | cons c m ih =>
    obtain ⟨a, b⟩ := c
    obtain ⟨h1, h2, h3⟩ := (Mem.wf_cons _ _ _).1 h
    rw [List.filter_cons]
    split
    · exact (Mem.wf_cons _ _ _).2 ⟨h1, fun c hc => h2 c (List.mem_filter.1 hc).1, ih h3⟩
    · exact ih h3

/-- The bytes of a number read from memory. -/
theorem Mem.testBit_readN (m : Mem) (a n i : Nat) :
    (m.readN a n).testBit i = if i < 8 * n then (m.read (a + i / 8)).getLsbD (i % 8) else false := by
  induction n generalizing a i with
  | zero => simp [Mem.readN]
  | succ n ih =>
    have hb : (m.read a).toNat < 2 ^ 8 := (m.read a).isLt
    rw [Mem.readN, show (256 : Nat) = 2 ^ 8 by rfl, Nat.add_comm, Nat.testBit_two_pow_mul_add _ hb, ih]
    by_cases h8 : i < 8
    · rw [if_pos h8, if_pos (by omega : i < 8 * (n + 1))]
      simp [BitVec.getLsbD, Nat.mod_eq_of_lt h8, Nat.div_eq_of_lt h8]
    · rw [if_neg h8]
      by_cases hi : i < 8 * (n + 1)
      · rw [if_pos hi, if_pos (by omega)]
        rw [show a + 1 + (i - 8) / 8 = a + i / 8 by omega, show (i - 8) % 8 = i % 8 by omega]
      · rw [if_neg hi, if_neg (by omega)]

/-! ### The list of key indexes -/

theorem keyedWf_cons (b : Nat) (e : BitVec 13) (l : List (Nat × BitVec 13)) :
    keyedWf ((b, e) :: l) = true ↔ e ≠ 0 ∧ (∀ x ∈ l, b < x.1) ∧ keyedWf l = true := by
  induction l generalizing b e with
  | nil => simp [keyedWf]
  | cons c l ih =>
    obtain ⟨b', e'⟩ := c
    simp only [keyedWf, Bool.and_eq_true, bne_iff_ne, decide_eq_true_eq, and_assoc]
    constructor
    · rintro ⟨h1, h2, h3⟩
      refine ⟨h1, fun x hx => ?_, h3⟩
      rcases List.mem_cons.1 hx with rfl | hx
      · exact h2
      · exact Nat.lt_trans h2 (((ih b' e').1 h3).2.1 x hx)
    · rintro ⟨h1, h2, h3⟩
      exact ⟨h1, h2 (b', e') (by simp), h3⟩

theorem putKeyed_mem {b : Nat} {e : BitVec 13} {l : List (Nat × BitVec 13)} {x : Nat × BitVec 13} (h : x ∈ putKeyed b e l) :
    x ∈ l ∨ x = (b, e) := by
  induction l with
  | nil => simp only [putKeyed] at h; split at h <;> simp_all
  | cons c l ih =>
    simp only [putKeyed] at h
    split at h
    · split at h
      · exact .inl (List.mem_cons_of_mem _ h)
      · rcases List.mem_cons.1 h with rfl | h <;> simp [*]
    · split at h
      · split at h
        · exact .inl h
        · rcases List.mem_cons.1 h with rfl | h <;> simp [*]
      · rcases List.mem_cons.1 h with rfl | h
        · simp
        · rcases ih h with h | h <;> simp [h]

/-- Noting a block keeps the canonical form. -/
theorem putKeyed_wf {l : List (Nat × BitVec 13)} (h : keyedWf l = true) (b : Nat) (e : BitVec 13) :
    keyedWf (putKeyed b e l) = true := by
  induction l with
  | nil => simp only [putKeyed]; split <;> simp_all [keyedWf]
  | cons c l ih =>
    obtain ⟨b', e'⟩ := c
    obtain ⟨h1, h2, h3⟩ := (keyedWf_cons _ _ _).1 h
    simp only [putKeyed]
    split
    · rename_i hb
      subst hb
      split
      · exact h3
      · rename_i he; exact (keyedWf_cons _ _ _).2 ⟨he, h2, h3⟩
    · split
      · split
        · exact h
        · rename_i hlt he
          refine (keyedWf_cons _ _ _).2 ⟨he, fun x hx => ?_, h⟩
          rcases List.mem_cons.1 hx with rfl | hx
          · exact hlt
          · exact Nat.lt_trans hlt (h2 x hx)
      · refine (keyedWf_cons _ _ _).2 ⟨h1, fun x hx => ?_, ih h3⟩
        rcases putKeyed_mem hx with hx | rfl
        · exact h2 x hx
        · simp only; omega

/-- Noting a block that stands under the same index already changes nothing. -/
theorem putKeyed_same {l : List (Nat × BitVec 13)} (h : keyedWf l = true) (b : Nat) :
    putKeyed b (((l.find? (·.1 = b)).map (·.2)).getD 0) l = l := by
  induction l with
  | nil => rfl
  | cons c l ih =>
    obtain ⟨b', e'⟩ := c
    obtain ⟨h1, h2, h3⟩ := (keyedWf_cons _ _ _).1 h
    by_cases hb : b' = b
    · subst hb; simpa [putKeyed] using h1
    · have hf : (List.find? (fun x => decide (x.1 = b)) ((b', e') :: l)) = l.find? (·.1 = b) := by
        rw [List.find?_cons_of_neg]; simpa using hb
      rw [hf]
      simp only [putKeyed, if_neg hb]
      split
      · rename_i hlt
        have : l.find? (·.1 = b) = none := by
          rw [List.find?_eq_none]
          intro x hx
          have := h2 x hx
          simp only [decide_eq_true_eq]; omega
        simp [this]
      · rw [ih h3]

/-- An access under the key index with which its bytes were written finds them as they were. -/
theorem State.under_of_keyed {s : State} {pl : Place} {n : Nat} (h : s.Keyed pl n) : s.under pl.enc pl.key n = s.mem := by
  unfold State.Keyed at h
  unfold State.under
  generalize blocksOf pl.key n = bs at h
  generalize s.mem = m
  induction bs with
  | nil => rfl
  | cons b bs ih =>
    rw [List.foldl_cons, if_pos (h b (by simp))]
    exact ih fun x hx => h x (by simp [hx])

/-- A store under the key index with which the bytes were written changes the bytes alone. -/
theorem State.putBytes_of_keyed {s : State} {pl : Place} {n v : Nat} (h : s.Keyed pl n) (hw : keyedWf s.keyed = true) :
    s.putBytes pl n v = { s with mem := s.mem.writeN pl.key n v } := by
  have hk : (blocksOf pl.key n).foldl (fun l b => putKeyed b pl.enc l) s.keyed = s.keyed := by
    unfold State.Keyed at h
    generalize blocksOf pl.key n = bs at h
    induction bs with
    | nil => rfl
    | cons b bs ih =>
      rw [List.foldl_cons, ← h b (by simp)]
      rw [show putKeyed b (s.blockKey b) s.keyed = s.keyed from putKeyed_same hw b]
      exact h b (by simp) ▸ ih fun x hx => h x (by simp [hx])
  unfold State.putBytes
  rw [State.under_of_keyed h, hk]

theorem State.reset_canonical : State.reset.Canonical := ⟨rfl, rfl⟩

end Sys2Proof.Machine
end

