-- ==== Sys2Proof/Tests/Slice0.lean ====
section
/-! SUPPORT. The model's own tests: ill-formed terms that the checks refuse, words written out from the encoding tables of the spec,
and, for the statements, concrete states that meet their hypotheses. -/
namespace Sys2Proof.Tests
set_option Elab.async false
open Sys2Proof Sys2Proof.Machine

/-! ### Ill-formed terms (08_encoding.md R135) -/

/-- Each check of WellFormed refuses a term of its own, and takes the neighbour that the spec allows. -/
theorem test_checks_refuse :
    (Instr.intr 0 0).isWord = false ∧ (Instr.mzero 4).selectorOk = false ∧ (Instr.mzero 3).selectorOk = true ∧
    (Instr.wlpop 1 2).registersOk = false ∧ (Instr.wlpop 2 1).registersOk = true ∧
    (Instr.vshl 0 0 0 0 5).typesOk = false ∧ (Instr.vshl 0 0 0 0 4).typesOk = true ∧
    (Instr.vadd 0 0 0 0 3 1).roundingOk = false ∧ (Instr.vadd 0 0 0 0 7 1).roundingOk = true := by decide

/-- A term that any one check refuses is ill formed. -/
theorem test_ill_formed :
    (Instr.intr 0 0).wellFormed = false ∧ (Instr.mzero 4).wellFormed = false ∧ (Instr.wlpop 1 2).wellFormed = false ∧
    (Instr.vshl 0 0 0 0 5).wellFormed = false ∧ (Instr.vadd 0 0 0 0 3 1).wellFormed = false ∧
    (Instr.vadd 0 0 0 0 7 1).wellFormed = true := by decide

/-! ### The words that the spec writes beside its examples (08_encoding.md R129 to R134; 20 to 23) -/

theorem test_words_alu :
    decodeTableWord 32 0x0448C000 = some (.add 1 2 3) ∧ decodeTableWord 32 0x04994010 = some (.sub 2 6 5) ∧
    decodeTableWord 32 0x059E0020 = some (.and 6 7 8) ∧ decodeTableWord 32 0x04000030 = some (.or 0 0 0) ∧
    decodeTableWord 32 0x05128030 = some (.or 4 4 10) ∧ decodeTableWord 32 0x0448C040 = some (.xor 1 2 3) ∧
    decodeTableWord 32 0x05984050 = some (.shl 6 6 1) ∧ decodeTableWord 32 0x048D0060 = some (.shr 2 3 4) ∧
    decodeTableWord 32 0x048D0070 = some (.sra 2 3 4) ∧ decodeTableWord 32 0x0448C080 = some (.slt 1 2 3) ∧
    decodeTableWord 32 0x0448C090 = some (.sltu 1 2 3) ∧ decodeTableWord 32 0x0448C0A0 = some (.min 1 2 3) ∧
    decodeTableWord 32 0x0448C0B0 = some (.max 1 2 3) ∧ decodeTableWord 32 0x051400C0 = some (.clz 4 5) ∧
    decodeTableWord 32 0x051400D0 = some (.ctz 4 5) ∧ decodeTableWord 32 0x051400E0 = some (.popc 4 5) ∧
    decodeTableWord 32 0x0448D0F0 = some (.sel 1 2 3 4) := by
  decide

theorem test_words_immediate :
    decodeTableWord 32 0x08400005 = some (.addi 1 0 5) ∧ decodeTableWord 32 0x0D9FFFF0 = some (.andi 6 7 262128) ∧
    decodeTableWord 32 0x10880009 = some (.ori 2 2 9) ∧ decodeTableWord 32 0x10CFFFFF = some (.ori 3 3 262143) ∧
    decodeTableWord 32 0x14CFFFFF = some (.xori 3 3 262143) ∧ decodeTableWord 32 0x19140000 = some (.slti 4 5 0) ∧
    decodeTableWord 32 0x1D100001 = some (.shli 4 4 1) ∧ decodeTableWord 32 0x1D10003E = some (.shli 4 4 62) ∧
    decodeTableWord 32 0x1D9D0001 = some (.shri 6 7 1) ∧ decodeTableWord 32 0x1CD20007 = some (.srai 3 4 7) ∧
    decodeTableWord 32 0x21800008 = some (.lui 6 8) ∧ decodeTableWord 32 0x207FFFFF = some (.lui 1 4194303) ∧
    decodeTableWord 32 0x24700000 = some (.luih 1 3145728) ∧ decodeTableWord 32 0x25900000 = some (.luih 6 1048576) ∧
    decodeTableWord 32 0x28800006 = some (.addpc 2 6) := by
  decide

theorem test_words_control :
    decodeTableWord 32 0x2C48C002 = some (.mul 1 2 3 2) ∧ decodeTableWord 32 0x2D59C013 = some (.div 5 6 7 3) ∧
    decodeTableWord 32 0x2D59C023 = some (.divu 5 6 7 3) ∧ decodeTableWord 32 0x2D59C033 = some (.rem 5 6 7 3) ∧
    decodeTableWord 32 0x2D59C043 = some (.remu 5 6 7 3) ∧ decodeTableWord 32 0x30D00002 = some (.beq 3 4 2) ∧
    decodeTableWord 32 0x3080FFFE = some (.bne 2 0 32766) ∧ decodeTableWord 32 0x31417FFF = some (.blt 5 0 32767) ∧
    decodeTableWord 32 0x304A0004 = some (.bltu 1 2 4) ∧ decodeTableWord 32 0x31168003 = some (.bgeu 4 5 3) ∧
    decodeTableWord 32 0x319F0005 = some (.bany 6 7 5) ∧ decodeTableWord 32 0x319FFFFE = some (.bnone 6 7 32766) ∧
    decodeTableWord 32 0x37C00003 = some (.jal 15 3) ∧ decodeTableWord 32 0x37C00004 = some (.jal 15 4) ∧
    decodeTableWord 32 0x383C0000 = some (.jalr 0 15 0) ∧ decodeTableWord 32 0x3BC80000 = some (.jalr 15 2 0) ∧
    decodeTableWord 32 0x3C0C0440 = some (.rpt 3 0 1 1 0) ∧ decodeTableWord 32 0x3FFFC048 = some (.rpt 255 15 0 1 2) := by
  decide

theorem test_words_memory :
    decodeTableWord 32 0x41E23FF1 = some (.ld 7 8 2 0 1023 1) ∧ decodeTableWord 32 0x40874002 = some (.ld 2 1 3 1 0 2) ∧
    decodeTableWord 32 0x40D08051 = some (.lds 3 4 0 0 5 1) ∧ decodeTableWord 32 0x45070020 = some (.st 4 1 3 0 2) ∧
    decodeTableWord 32 0x44B80200 = some (.st 2 14 0 0 32) ∧ decodeTableWord 32 0x4B0C0000 = some (.ldf 12 3 0 0) ∧
    decodeTableWord 32 0x48C44000 = some (.ldfe 3 1 0 0) ∧ decodeTableWord 32 0x48848010 = some (.stf 2 1 1) ∧
    decodeTableWord 32 0x4814C000 = some (.stef 0 5 0) ∧ decodeTableWord 32 0x490D0001 = some (.fetest 4 3 0 1) ∧
    decodeTableWord 32 0x4B4D4000 = some (.feset 13 3 0) ∧ decodeTableWord 32 0x4CA80000 = some (.hold 2 10 0 0) ∧
    decodeTableWord 32 0x4D940000 = some (.hold 6 5 0 0) ∧ decodeTableWord 32 0x4C684000 = some (.release 1 10 0) ∧
    decodeTableWord 32 0x4C144000 = some (.release 0 5 0) ∧ decodeTableWord 32 0x50C40000 = some (.far 3 1 0 0) ∧
    decodeTableWord 32 0x50918020 = some (.far 2 4 6 2) ∧ decodeTableWord 32 0x54000000 = some .fenceGroup ∧
    decodeTableWord 32 0x54400000 = some .fenceDevice ∧ decodeTableWord 32 0x54800000 = some .fenceSystem ∧
    decodeTableWord 32 0x54C00000 = some .fenceI := by
  decide

theorem test_words_work :
    decodeTableWord 32 0x58C80000 = some (.mig 3 2) ∧ decodeTableWord 32 0x61580000 = some (.wfld 5 6 0) ∧
    decodeTableWord 32 0x61580400 = some (.wfld 5 6 1) ∧ decodeTableWord 32 0x60C00010 = some (.wfw 3) ∧
    decodeTableWord 32 0x6048C020 = some (.wlpush 1 2 3) ∧ decodeTableWord 32 0x61940030 = some (.wlpop 6 5) ∧
    decodeTableWord 32 0x60480040 = some (.launch 1 2 0) ∧ decodeTableWord 32 0x60C00850 = some (.gang 3 2) ∧
    decodeTableWord 32 0x60000060 = some .ungang ∧ decodeTableWord 32 0x60000070 = some .yield ∧
    decodeTableWord 32 0x65800000 = some (.mfs 6 0) ∧ decodeTableWord 32 0x66C01100 = some (.mfs 11 68) ∧
    decodeTableWord 32 0x640809C1 = some (.mts 2 39) ∧ decodeTableWord 32 0x64000A81 = some (.mts 0 42) ∧
    decodeTableWord 32 0xF8000000 = some (.ecall 0) ∧ decodeTableWord 32 0xF8000440 = some (.ecall 17) ∧
    decodeTableWord 32 0xF8000001 = some (.ebrk 0) ∧ decodeTableWord 32 0xF80000C1 = some (.ebrk 3) ∧
    decodeTableWord 32 0xF8000002 = some .tret ∧ decodeTableWord 32 0xF8000004 = some .waiti ∧
    decodeTableWord 32 0xF8000005 = some .halt := by
  decide

theorem test_words_time :
    decodeTableWord 32 0x6988D000 = some (.sendv 6 2 3 4) ∧ decodeTableWord 32 0x6A400012 = some (.recvv 9 2) ∧
    decodeTableWord 32 0x68240020 = some (.mdone 9) ∧ decodeTableWord 32 0x68040030 = some (.roll 1) ∧
    decodeTableWord 32 0x68D14040 = some (.defer 3 4 5) ∧ decodeTableWord 32 0x6C080C00 = some (.axbind 2 0 3) ∧
    decodeTableWord 32 0x6C062400 = some (.axbind 1 8 9) ∧ decodeTableWord 32 0x6EF40010 = some (.fopen 11 13) ∧
    decodeTableWord 32 0x6E1C0020 = some (.fconf 8 7) ∧ decodeTableWord 32 0x6E1C0030 = some (.funw 8 7) ∧
    decodeTableWord 32 0x6C0F5040 = some (.tokemit 0 3 13 4) ∧ decodeTableWord 32 0x6C9CE450 = some (.abop 2 7 3 9) ∧
    decodeTableWord 32 0x6C040060 = some (.tbegin 1) ∧ decodeTableWord 32 0x6C000070 = some .tend := by
  decide

theorem test_words_vector :
    decodeTableWord 32 0x8048C01C = some (.vadd 1 2 3 0 7 0) ∧ decodeTableWord 32 0x8111410C = some (.vsub 4 4 5 0 3 0) ∧
    decodeTableWord 32 0x80C08214 = some (.vmul 3 0 2 0 5 0) ∧ decodeTableWord 32 0x80C4835C = some (.vfma 3 1 2 1 7 0) ∧
    decodeTableWord 32 0x819E0A08 = some (.vshr 6 7 8 0 2) ∧ decodeTableWord 32 0x84448110 = some (.vcmp 1 1 2 1 0 4) ∧
    decodeTableWord 32 0x8448085C = some (.vsel 1 2 1 7) ∧ decodeTableWord 32 0x8448C900 = some (.mand 1 2 3) ∧
    decodeTableWord 32 0x8448CA00 = some (.mor 1 2 3) ∧ decodeTableWord 32 0x84840B00 = some (.mnot 2 1) ∧
    decodeTableWord 32 0x84C40C00 = some (.mfirst 3 1 0) ∧ decodeTableWord 32 0x84C54C00 = some (.mfirst 3 1 5) ∧
    decodeTableWord 32 0x89100017 = some (.vred 4 4 0 0 5 3) ∧ decodeTableWord 32 0x8894400C = some (.vred 2 5 1 0 3 0) ∧
    decodeTableWord 32 0x888D0100 = some (.vperm 2 3 4 0 0) ∧ decodeTableWord 32 0x8908021C = some (.vbcast 4 2 0 7) ∧
    decodeTableWord 32 0x88C4031C = some (.vmovs 3 1 0 7) ∧ decodeTableWord 32 0x895C040C = some (.viota 5 7 0 3) := by
  decide

theorem test_words_vector_more :
    decodeTableWord 32 0x8C84001C = some (.vexp2 2 1 0 0) ∧ decodeTableWord 32 0x8C84011C = some (.vlog2 2 1 0 0) ∧
    decodeTableWord 32 0x91080023 = some (.vld 4 2 2 3) ∧ decodeTableWord 32 0x90640400 = some (.vst 1 9 0) ∧
    decodeTableWord 32 0x90D14801 = some (.vlds 3 4 5 0 1) ∧ decodeTableWord 32 0x9189CC02 = some (.vgat 6 2 7 0 2) ∧
    decodeTableWord 32 0x9485401C = some (.vcvt 2 1 5 0 7 0) ∧ decodeTableWord 32 0x94C9C00D = some (.vcvt 3 2 7 0 3 1) ∧
    decodeTableWord 32 0x9484C11C = some (.vqnt 2 1 3 0 7) ∧ decodeTableWord 32 0x9548C21C = some (.vdqnt 5 2 3 0 7 0) ∧
    decodeTableWord 32 0x9848C01C = some (.vbfly 1 2 3 0) ∧ decodeTableWord 32 0x98D0411C = some (.vtwid 3 4 1 0) ∧
    decodeTableWord 32 0x9D008017 = some (.vbound 4 0 2 0 5 3) ∧ decodeTableWord 32 0x9E07809C = some (.vbound 8 1 14 2 7 0) ∧
    decodeTableWord 32 0x9D920114 = some (.vtopk 6 4 8 0 5) ∧ decodeTableWord 32 0x9E8F015C = some (.vtopk 10 3 12 1 7) ∧
    decodeTableWord 32 0x9D94021C = some (.vgumb 6 5 0) ∧ decodeTableWord 32 0x9D48C31C = some (.vrng 5 2 3 0 7) ∧
    decodeTableWord 32 0x9D24041C = some (.vgmask 4 9 0 7) := by
  decide

theorem test_words_engines :
    decodeTableWord 32 0xA14D2060 = some (.mma 1 2 3 1 0 1 3 0) ∧ decodeTableWord 32 0xA4480000 = some (.mcfg 1 2) ∧
    decodeTableWord 32 0xA44C0010 = some (.mring 1 3) ∧ decodeTableWord 32 0xA5580820 = some (.rpush 5 6 2) ∧
    decodeTableWord 32 0xA4000C30 = some (.mzero 3) ∧ decodeTableWord 32 0xA4100440 = some (.mst 4 0 1) ∧
    decodeTableWord 32 0xA4104440 = some (.mst 4 1 1) ∧ decodeTableWord 32 0xA41C0050 = some (.mdup 7) ∧
    decodeTableWord 32 0xA949E000 = some (.cpy 5 2 7 8 0) ∧ decodeTableWord 32 0xAA600010 = some (.cpyw 9 8 0) ∧
    decodeTableWord 32 0xAB6C0020 = some (.cpyres 13 11) ∧ decodeTableWord 32 0xA9180030 = some (.gath 4 6 0) ∧
    decodeTableWord 32 0xA8D40040 = some (.coll 3 5 0) ∧ decodeTableWord 32 0xA89C0050 = some (.bar 2 7 0) ∧
    decodeTableWord 32 0xA8400060 = some (.quies 1 0) := by
  decide

theorem test_words_units :
    decodeTableWord 32 0xAEA30000 = some (.bhash 10 8 12 0) ∧ decodeTableWord 32 0xAED58010 = some (.pfxlook 11 5 6 0) ∧
    decodeTableWord 32 0xAED58020 = some (.pfxins 11 5 6 0) ∧ decodeTableWord 32 0xAF16D830 = some (.pfxpin 12 5 11 6 0) ∧
    decodeTableWord 32 0xAC96C040 = some (.pfxunpin 2 5 11 0) ∧ decodeTableWord 32 0xACD14052 = some (.ancm 3 4 5 2) ∧
    decodeTableWord 32 0xAD88D062 = some (.kvapp 6 2 3 4 2) ∧ decodeTableWord 32 0xB159C000 = some (.utfb 5 6 7) ∧
    decodeTableWord 32 0xB2256810 = some (.trie 8 9 5 10) := by
  decide

/-- BGE w4, w5, +12: op 0x0C, a 4, b 5, cond 3, off15 3 (08 R129, 20 R323). -/
theorem test_word_bge : decodeTableWord 32 0x31158003 = some (.bge 4 5 3) := by decide

/-- Reserved words are refused: word 0, a shift of kind 3, a nonzero bit of a zero field, and a selector that is not assigned. -/
theorem test_words_refused :
    decodeTableWord 32 0 = none ∧ decodeTableWord 32 0x1D130001 = none ∧ decodeTableWord 32 0x1D100041 = none ∧
    decodeTableWord 32 0x60C01050 = none ∧ decodeTableWord 32 0xF8000006 = none := by decide

/-! ### Single steps -/

/-- The state from which the tests start: a user thread of partition 0 in slot 0 of core (0, 0). -/
def base : State := State.reset.withFetchWord 32 0
/-- The state with w[r] set. -/
def put (s : State) (r : Reg) (x : Word) : State := { s with th := s.th.wr r x }
/-- w[r] after the instruction, or none where the step does not go on. -/
def reg (i : Instr) (s : State) (r : Reg) : Option Word :=
  match exec i s with
  | .next t => some (t.rd r)
  | _ => none
/-- The word fetched and run as the first instruction, and what it leaves in w[r]. -/
def first (w : Nat) (r : Reg) : Option Word :=
  match step (State.reset.withFetchWord 32 w) with
  | .next t => some (t.rd r)
  | _ => none

/-- `addi w1, w0, 5` runs from memory (20 R318). -/
theorem test_first_addi : first 0x08400005 1 = some 5 := by decide +kernel
/-- `lui w1, -1` (21 R352). -/
theorem test_first_lui : first 0x207FFFFF 1 = some 0xFFFFFFFFFFFC0000 := by decide +kernel
/-- The shift examples of 22 R372: srai of −129 by 7 is −2. -/
theorem test_srai : reg (.srai 3 4 7) (put base 4 (-129)) 3 = some (-2) := by decide
/-- A sum that wraps, and a source that is also the destination. -/
theorem test_add_wraps : reg (.add 1 1 2) (put (put base 1 (BitVec.allOnes 64)) 2 1) 1 = some 0 := by decide
/-- Divisor 0 and the most negative dividend (07 R125, 20 R330). -/
theorem test_div_corners :
    reg (.div 1 2 3 0) (put base 2 7) 1 = some (BitVec.allOnes 64) ∧ reg (.rem 1 2 3 0) (put base 2 7) 1 = some 7 ∧
    reg (.div 1 2 3 0) (put (put base 2 0x8000000000000000) 3 (-1)) 1 = some 0x8000000000000000 := by decide
/-- CLZ of 0 is 64 (20 R317). -/
theorem test_clz_zero : reg (.clz 1 2) base 1 = some 64 := by decide
/-- BANY takes the branch where the two share a bit, to its own address plus 4 · off (20 R323). -/
theorem test_bany :
    (match exec (.bany 1 2 5) (put (put base 1 6) 2 12) with
     | .next t => t.th.pc
     | _ => 0) = base.th.pc + 20 := by decide
/-- A byte stored by a relaxed store at the top of a word is read back with its sign (21 R350, 22 R373). -/
theorem test_store_load :
    (match exec (.st 2 1 0 1 7) (put (put base 1 (ownAddr 0x1000)) 2 0x180) with
     | .next t => reg (.lds 3 1 0 0 7 0) t 3
     | _ => none) = some (-128) := by decide
/-- ECALL 17 continues at TVEC with the service number in TVAL (10 R161). -/
theorem test_ecall :
    (match exec (.ecall 17) { base with th := { base.th with trap := { base.th.trap with tvec := 0x40 } } } with
     | .next t => (t.th.pc, t.th.trap.tval, t.th.trap.tepc)
     | _ => (0, 0, 0)) = (0x40, 17, base.th.pc) := by decide
/-- UTFB keeps the lead byte of é and then gives its code point (17 R282). -/
theorem test_utfb :
    reg (.utfb 5 6 7) (put base 7 0xC3) 5 = some 0x8000000000000000 ∧
    reg (.utfb 5 6 7) (put (put base 6 0xC305) 7 0xA9) 5 = some 0xE9 := by decide

/-! ### States that meet the hypotheses of the statements -/

/-- The thread of a state changed. -/
def th (s : State) (f : Thread → Thread) : State := { s with th := f s.th }
/-- The current core of a state changed. -/
def co (s : State) (f : Core → Core) : State := { s with core := f s.core }
/-- The current partition of a state changed. -/
def pa (s : State) (f : Partition → Partition) : State := { s with part := f s.part }
/-- A bit of TSTAT set. -/
def bitSet (s : State) (n : Nat) : State := th s (·.setSt n true)
/-- The thread at supervisor privilege. -/
def super : State := th base fun t => { t with tstat := t.tstat ||| 1 }
/-- One pending result of the thread, with its window still open. -/
def pending (s : State) (p : Pending) : State := th s fun t => { t with pipe := { t.pipe with pend := [p] } }

theorem every_of {α : Type} {l : List α} {P : α → Prop} [DecidablePred P] (h : (l.all fun c => decide (P c)) = true) : ∀ c ∈ l, P c := by
  simpa using h

theorem free_of {s : State} (h : s.th.pipe.pend = []) (rs : List Reg) : s.Free rs := by simp [State.Free, h]
theorem freeVec_of {s : State} (h : s.th.pipe.pend = []) (vs : List Reg) : s.FreeVec vs := by simp [State.FreeVec, h]

/-- Only the current core has an entry, and it records and replays nothing. -/
def quietB (s : State) : Bool :=
  s.cores.isEmpty && !s.core.log.enabled && !s.core.trace.enabled && s.core.log.replay.isEmpty

theorem quiet_of {s : State} (h : quietB s = true) : s.Quiet := by
  simp only [quietB, Bool.and_eq_true, Bool.not_eq_true', List.isEmpty_iff] at h
  intro c
  by_cases e : s.core.cid = c <;> simp [State.coreOf, e, h.1.1.1, h.1.1.2, h.1.2, h.2, Core.initial]

/-- A test for `Calm`, and for `Settled`. -/
def calmB (s : State) : Bool :=
  quietB s && s.th.pipe.held.isEmpty && s.th.pipe.pend.isEmpty && s.waiters.isEmpty && s.core.jobs.isEmpty && s.core.cq.isEmpty &&
  s.core.cid == s.th.cid && !s.th.pipe.plainOut && !s.awaiting && s.messages.isEmpty && s.transits.isEmpty && s.moves.isEmpty

theorem calm_of {s : State} (h : calmB s = true) : s.Calm := by
  simp only [calmB, Bool.and_eq_true, Bool.not_eq_true', List.isEmpty_iff, beq_iff_eq] at h
  obtain ⟨⟨⟨⟨⟨⟨⟨⟨⟨⟨⟨q, hh⟩, hp⟩, hw⟩, hj⟩, hc⟩, hi⟩, po⟩, aw⟩, hm⟩, ht⟩, hv⟩ := h
  exact ⟨hh, by simp [hp], po, aw, by simp [hw], by simp [State.pathBusy, hm, ht, hv], hj, hc, hi, quiet_of q⟩

theorem settled_of {s : State} (h : calmB s = true) (g : s.th.gang = none) : s.Settled := by
  simp only [calmB, Bool.and_eq_true, List.isEmpty_iff] at h
  obtain ⟨⟨⟨⟨⟨⟨⟨⟨⟨⟨-, hp⟩, hw⟩, -⟩, -⟩, -⟩, -⟩, -⟩, -⟩, -⟩, -⟩ := h
  exact ⟨hp, g, by simp [hw]⟩

/-- Bytes in no HBM block stand as they were written. -/
theorem keyed_of {s : State} {pl : Place} {n : Nat} (h : blocksOf pl.key n = []) : s.Keyed pl n := by
  intro b hb
  rw [h] at hb
  cases hb

/-- Bytes of HBM blocks whose key indexes are the access's. -/
theorem keyed_hbm {s : State} {pl : Place} {n : Nat} (h : ((blocksOf pl.key n).all fun b => s.blockKey b == pl.enc) = true) :
    s.Keyed pl n := by
  intro b hb
  simpa using (List.all_eq_true.mp h) b hb

theorem reaches_of {s : State} {ac : Access} {n : Nat} {a : Word} {pl : Place} (h : resolve s s.th.agent ac n a = .ok pl)
    (p : pl.special = .none) (c : s.poisonIn pl.key n = none) (k : blocksOf pl.key n = []) : s.Reaches ac n a pl :=
  ⟨h, p, c, keyed_of k⟩

theorem base_free (rs : List Reg) : base.Free rs := free_of rfl rs
theorem base_calm : base.Calm := calm_of (by decide +kernel)
theorem base_settled : base.Settled := settled_of (by decide +kernel) rfl
theorem base_canonical : base.Canonical := by unfold State.Canonical; decide
theorem base_unlogged : base.Unlogged := ⟨by decide +kernel, by decide +kernel⟩
theorem base_focused : base.Focused := ⟨by decide +kernel, by decide +kernel⟩

/-- RegisterAlu, ImmediateAlu, MultiplyDivide, ShiftImmediates and FixedRegisters: registers outside every window, words that R372 refuses. -/
theorem witness_scalar :
    base.Free [1, 2, 3] ∧ base.Free [4] ∧ (0 : BitVec 6) = 0 ∧
    ((0x1D130000#32).extractLsb' 26 6 = 7#6 ∧ (0x1D130000#32).extractLsb' 16 2 = 3#2) ∧
    ((0x1D100040#32).extractLsb' 26 6 = 7#6 ∧ (0x1D100040#32).extractLsb' 6 10 ≠ 0#10) ∧ (15 : Reg) ≠ 0 ∧ (3 : BitVec 2) ≠ 0 :=
  ⟨base_free _, base_free _, by decide +kernel⟩

/-- ControlTransfer: a branch taken and one not, an aligned and a misaligned JALR base. -/
theorem witness_ControlTransfer :
    (base.Free [1, 2] ∧ base.th.pipe.inFrame = false ∧ base.rd 1 = base.rd 2 ∧ (put base 1 1).rd 1 ≠ (put base 1 1).rd 2) ∧
    (base.Free [1, 2] ∧ (base.rd 2).toNat % 4 = 0) ∧
    (let s := put base 2 1
     s.Free [1, 2] ∧ s.Settled ∧ s.th.st tSP = false ∧ (s.rd 2).toNat % 4 ≠ 0) :=
  ⟨⟨base_free _, by decide +kernel⟩, ⟨base_free _, by decide +kernel⟩, free_of rfl _, settled_of (by decide +kernel) rfl, by decide +kernel⟩

/-- RepeatFrames: outside a frame; two words that can be captured; and a frame in the middle of a pass, at the end of a pass, and at the
end of the last. -/
theorem witness_RepeatFrames :
    base.th.pipe.inFrame = false ∧
    (let s := { base with mem := Mem.writeN [] (programOff + 4) 8 0x08400005_0448C000 }
     (∃ ws, capture s (s.th.pc + 4) ((1 : Reg).toNat + 1) = .ok ws ∧ frameCause (s.th.pc + 4) 0 ws = none) ∧
       s.th.pipe.inFrame = false) ∧
    (let frame (x : Word) : Thread := { base.th with
        pipe := { base.th.pipe with inFrame := true }, trap := { base.th.trap with rptst := x } }
     let x := (frame 0x8000000001010000).trap.rptst
     let y := (frame 0x8000000001110000).trap.rptst
     let z := (frame 0x8000000101110000).trap.rptst
     (frame 0).pipe.inFrame = true ∧ bits x 23 20 < bits x 19 16 ∧
     (bits y 19 16 ≤ bits y 23 20 ∧ bits y 39 32 < bits y 31 24) ∧ bits z 19 16 ≤ bits z 23 20 ∧ bits z 31 24 ≤ bits z 39 32) :=
  ⟨by decide +kernel, ⟨⟨[0x0448C000, 0x08400005], rfl, by decide +kernel⟩, by decide +kernel⟩, by decide +kernel⟩

/-- One pending result of w[r] that has its value, its window open for two more instructions. -/
def inHand (r : Reg) : Pending := ⟨wReg r, 2, 0, 0, .value 5, 0⟩
/-- A grant outstanding. -/
def granted : Pending := ⟨wReg 1, 2, 0, 0, .barrier 0 false, 0⟩

/-- TakingTraps: SP clear with nothing outstanding, with a value in hand, with a result that must be waited for; and SP set, in a partition
that is RUNNING and in one that is FAILED. -/
theorem witness_TakingTraps :
    (base.th.st tSP = false ∧ base.Settled) ∧
    (let s := pending base (inHand 15)
     s.th.st tSP = false ∧ s.th.gang = none ∧ (15 : Reg) ≠ 0 ∧
       s.th.pipe.pend = [⟨wReg 15, 2, 0, 0, .value ((5 : Word).setWidth 512), 0⟩]) ∧
    (let s := pending base granted
     s.th.st tSP = false ∧ ∃ p ∈ s.th.pipe.pend, p.holdsTrap = true) ∧
    ((bitSet base tSP).th.st tSP = true ∧ (bitSet base tSP).part.state ≠ 3 ∧ (bitSet base tSP).Quiet ∧ (bitSet base tSP).part.iport = false) ∧
    (let s := pa (bitSet base tSP) fun p => { p with state := 3 }
     s.th.st tSP = true ∧ s.part.state = 3) :=
  ⟨⟨by decide +kernel, base_settled⟩, by decide +kernel, by decide +kernel,
    ⟨by decide +kernel, by decide +kernel, quiet_of (by decide +kernel), rfl⟩, by decide +kernel⟩

/-- LookaheadViolation: the window's register is the first and the last that an encoding names, a vector register, one of a pair, and each of those that a
WFW does not name; with and without a check before it; and a RELEASE whose HOLD has no grant. -/
theorem witness_LookaheadViolation :
    ((pending base (inHand 15)).th.pipe.pend = [inHand 15] ∧ 0 < (inHand 15).left) ∧
    ((inHand 1).reg ∈ touches (.add 1 2 3) ∧ (inHand 3).reg ∈ touches (.add 1 2 3) ∧ (inHand 3).reg ∈ touches (.wlpop 2 4) ∧
      vReg 0 ∈ touches (.vadd 0 1 2 0 3 0) ∧ vReg 3 ∈ touches (.vtopk 2 0 1 0 5) ∧ vReg 0 ∈ touches (.vbound 1 2 15 0 5 0)) ∧
    (checksFirst (.add 1 2 3) = false ∧ checksFirst (.wfw 5) = true ∧ ∀ r : Reg, r ∈ [1, 2, 3, 4] → wReg r ∈ touches (.wfw 5)) ∧
    (let s := pending (th base fun t => { t with holding := some 0 }) (inHand 1)
     (inHand 1).reg ∈ touches (.release 1 2 0) ∧ s.awaiting = true) ∧
    (let s := pending base (inHand 1)
     s.th.gang = none ∧ s.th.holding = none ∧ s.th.bound = false ∧ s.th.st tSP = false ∧ wReg 1 ∈ touches (.hold 1 2 0 0) ∧
       wReg 1 ∈ touches (.sendv 2 1 3 4) ∧ wReg 1 ∈ touches (.roll 1) ∧ wReg 1 ∈ touches (.mfs 1 0x008) ∧ wReg 1 ∈ touches (.mts 1 0) ∧
       0x008 ≤ 0x008#12) := by decide +kernel

/-- SpecialRegisterPrivilege: the numbers beside the listed ranges, and the ends of the closed ones, for a user. -/
theorem witness_SpecialRegisterPrivilege :
    ((0x008#12 < 0x009#12 ∧ 0x009#12 < 0x010#12) ∧ (0x0AF#12 < 0x0B0#12)) ∧
    ((0x040#12 ≤ 0x046#12 ∧ 0x046#12 ≤ 0x046#12) ∧ (0x060#12 ≤ 0x065#12 ∧ 0x065#12 ≤ 0x065#12)) ∧ bits base.th.tstat 1 0 = 0 := by
  decide

/-- SpecialRegisterReads and SpecialRegisterWrites, for a user and for a supervisor. -/
theorem witness_SpecialRegisters :
    (base.Free [1] ∧ base.core.cid = base.th.cid ∧ base.core.log.enabled = false ∧ base.core.log.replay = []) ∧
    (super.Free [1] ∧ super.core.cid = super.th.cid ∧ super.core.log.enabled = false ∧ super.core.log.replay = [] ∧
      bits super.th.tstat 1 0 ≠ 0 ∧ super.th.pipe.inFrame = false) ∧
    (0x070 ≤ 0x0AF ∧ 0x0AF ≤ 0x0AF) :=
  ⟨⟨base_free _, by decide +kernel⟩, ⟨free_of rfl _, by decide +kernel⟩, by decide +kernel⟩

/-- SpecialRegisterReads on a frame axis that holds all that it may. -/
theorem witness_SpecialRegisterReads_frame :
    let a : FrameAxis := { FrameAxis.initial 64 with
      window := 256, tokens := List.replicate 256 ⟨1, 2, 3⟩, frames := (List.range 8).map fun n => (BitVec.ofNat 64 n, true) }
    let s : State := { (th base fun t => { t with ax := { t.ax with axis := 0xA000000000000040, rvt := 0xFFFFFFFF } }) with axes := [a] }
    s.Free [1] ∧ s.th.bound = true ∧ s.th.axisMode = 1 ∧ (s.axisOf (BitVec.ofNat 14 s.th.axisNum)).frames.length ≤ 8 ∧
      (s.axisOf (BitVec.ofNat 14 s.th.axisNum)).tokens.length ≤ 256 ∧ s.th.ax.rvt.toNat < 2 ^ 32 := ⟨free_of rfl _, by decide +kernel⟩

/-- SpecialRegisterWrites: RSTK at both ends of the region; a checkpoint for which the stack has just room, and no thread bound; a user; a COUNT at the
arrivals and above them, and zero with arrivals and without. -/
theorem witness_SpecialRegisterWrites :
    (let rw := { base.th.rw with rsbase := 0x8000, rslim := 0x80C0, rstk := 0x8000, bottom := 0x8000 }
     let s := th base fun t => { t with rw := rw, ax := { t.ax with axis := 0x8000000000000005 } }
     (rw.base ≤ 0x8000 ∧ 0x8000 < rw.limit ∧ rw.base ≤ 0x80A0 ∧ 0x80A0 < rw.limit ∧ ¬(rw.base ≤ 0x7FE0) ∧ ¬(0x80C0 < rw.limit)) ∧
       s.Free [1] ∧ s.th.bound = true ∧ s.th.st tSP = false ∧ s.th.st tUNW = false ∧ s.Calm ∧ s.Canonical ∧ 5 ≤ s.th.rw.free ∧
       s.th.rw.free < 6 + 1) ∧
    (base.Free [1] ∧ base.th.bound = false ∧ bits base.th.tstat 1 0 = 0 ∧ ∀ m ∈ base.messages, m.st ≠ .heldAtReceiver) ∧
    (let y : Word := 2 * 2 ^ 20
     2 ≤ barArr y ∧ ¬3 ≤ barArr y ∧ barArr y ≠ 0 ∧ barArr 0 = 0) :=
  ⟨⟨by decide +kernel, free_of rfl _, by decide +kernel, by decide +kernel, by decide +kernel, calm_of (by decide +kernel), by unfold State.Canonical; decide,
      by decide +kernel, by decide +kernel⟩, ⟨base_free _, by decide +kernel⟩, by decide +kernel⟩

/-- SystemGroup: ECALL and EBRK with and without break-to-debugger; TRET in a handler, by a user, and outside one; WAITI with IE clear, with an
interrupt in a handler, and parking; HALT in the thread's home slot and in another. -/
theorem witness_SystemGroup :
    (base.Settled ∧ base.th.st tSP = false ∧ base.part.brk = false) ∧
    (let s := pa base fun p => { p with brk := true }
     s.Settled ∧ s.th.st tSP = false ∧ s.part.brk = true ∧ s.part.live = true ∧ s.part.state = 0) ∧
    (let s := bitSet super tSP
     bits s.th.tstat 1 0 ≠ 0 ∧ s.th.st tSP = true ∧ s.th.trap.rptst.getLsbD 63 = false ∧ s.th.pipe.held = []) ∧
    bits base.th.tstat 1 0 = 0 ∧ (bits super.th.tstat 1 0 ≠ 0 ∧ super.th.st tSP = false) ∧
    base.th.st tIE = false ∧
    (let s := th (bitSet (bitSet base tSP) tIE) fun t => { t with pipe := { t.pipe with irq := 1 } }
     s.th.st tSP = true ∧ s.th.pipe.irq ≠ 0) ∧
    ((bitSet base tIE).th.st tIE = true ∧ (bitSet base tIE).th.st tSP = false) ∧
    (base.th.st tBOOST = false ∧ base.th.bound = false ∧ base.th.holding = none ∧ base.th.pipe.held = [] ∧ base.th.pipe.pend = [] ∧
      base.th.pipe.plainOut = false ∧ (∀ w ∈ base.waiters, w.owner ≠ some base.th.tid) ∧ base.core.jobs = [] ∧ base.core.cq = [] ∧
      base.th.home = base.th.tid ∧ (th base fun t => { t with home := 9 }).th.home ≠ base.th.tid) :=
  ⟨⟨base_settled, by decide +kernel⟩, ⟨settled_of (by decide +kernel) rfl, by decide +kernel⟩, by decide +kernel⟩

/-- An address of the thread's own core in w1, and in w2. -/
def at1 : State := put base 1 (ownAddr 0x1000)
/-- The place of that address. -/
def pl1 : Place := ⟨.loc 0, 0x1000, 0x1000, 0, .none⟩

theorem at1_calm : at1.Calm := calm_of (by decide +kernel)
theorem at1_unlogged : at1.Unlogged := ⟨by decide +kernel, by decide +kernel⟩
theorem at1_canonical : at1.Canonical := by unfold State.Canonical; decide
theorem at1_unwatched : at1.Unwatched 0x1000 8 := ⟨by decide +kernel, by decide +kernel⟩

/-- The word of that address empty. -/
def empty1 : State := { at1 with empties := [0x1000] }

/-- Loads, Stores and the full/empty groups: aligned addresses of each size at an ordinary place, a word full and empty, a word that another
thread holds; a plain store that is not acknowledged. -/
theorem witness_accesses :
    (at1.Free [2, 1] ∧ at1.Calm ∧ at1.th.st tROAM = false ∧ at1.Unlogged ∧ at1.Canonical ∧ at1.Unwatched 0x1000 8) ∧
    at1.Reaches .load (2 ^ (3 : BitVec 2).toNat) (at1.rd 1 + (0 : BitVec 10).signExtend 64 * 8) pl1 ∧
    (at1.Reaches .store (2 ^ (0 : BitVec 2).toNat) (at1.rd 1 + (0 : BitVec 10).signExtend 64 * 1) pl1 ∧
      at1.heldByOther (some at1.th.tid) pl1.key 8 = none) ∧
    (at1.Reaches .feRead 8 (at1.rd 1 + (0 : BitVec 10).signExtend 64 * 8) pl1 ∧ at1.isFull pl1.key = true) ∧
    (at1.Reaches .feBoth 8 (at1.rd 1 + (0 : BitVec 10).signExtend 64 * 8) pl1 ∧
      at1.Reaches .feWrite 8 (at1.rd 1 + (0 : BitVec 10).signExtend 64 * 8) pl1 ∧
      at1.Reaches .stf 8 (at1.rd 1 + (0 : BitVec 10).signExtend 64 * 8) pl1) ∧
    (empty1.Free [2, 1] ∧ empty1.Calm ∧ empty1.Unlogged ∧ empty1.Unwatched pl1.key 8 ∧ empty1.isFull pl1.key = false ∧
      empty1.Reaches .feRead 8 (empty1.rd 1 + (0 : BitVec 10).signExtend 64 * 8) pl1 ∧
      empty1.Reaches .feBoth 8 (empty1.rd 1 + (0 : BitVec 10).signExtend 64 * 8) pl1 ∧
      empty1.Reaches .feWrite 8 (empty1.rd 1 + (0 : BitVec 10).signExtend 64 * 8) pl1) ∧
    (let s := { at1 with held := [⟨0x1000, .thread 9, 0, false, []⟩] }
     s.Free [2, 1] ∧ s.Calm ∧ s.Unlogged ∧ s.Reaches .store 8 (s.rd 1 + (0 : BitVec 10).signExtend 64 * 8) pl1 ∧
       s.heldByOther (some s.th.tid) pl1.key 8 = some ⟨0x1000, .thread 9, 0, false, []⟩) :=
  ⟨⟨free_of rfl _, at1_calm, by decide +kernel, at1_unlogged, at1_canonical, at1_unwatched⟩, reaches_of rfl rfl rfl rfl, ⟨reaches_of rfl rfl rfl rfl, rfl⟩,
    ⟨reaches_of rfl rfl rfl rfl, rfl⟩, ⟨reaches_of rfl rfl rfl rfl, reaches_of rfl rfl rfl rfl, reaches_of rfl rfl rfl rfl⟩,
    ⟨free_of rfl _, calm_of (by decide +kernel), ⟨by decide +kernel, by decide +kernel⟩, ⟨by decide +kernel, by decide +kernel⟩, rfl, reaches_of rfl rfl rfl rfl, reaches_of rfl rfl rfl rfl,
      reaches_of rfl rfl rfl rfl⟩,
    ⟨free_of rfl _, calm_of (by decide +kernel), ⟨by decide +kernel, by decide +kernel⟩, reaches_of rfl rfl rfl rfl, rfl⟩⟩

/-- The address of the doorbell word of the thread's quad, (0, 0) being its first core, in w1. -/
def doorS : State := put base 1 0x1FFFF8

/-- AddressChecks: a nonzero must-be-zero bit; the doorbell word, which takes no relaxed load and no plain store; a misaligned address; and a
local address just outside the 2 by 2 partition. -/
theorem witness_AddressChecks :
    (base.Free [2, 1] ∧ base.Settled ∧ base.th.pipe.held = [] ∧ base.th.st tSP = false) ∧
    addrMbz ((put base 1 0x400000000).rd 1 + (0 : BitVec 10).signExtend 64 * 8) = false ∧
    (let a := (put base 1 4).rd 1 + (0 : BitVec 10).signExtend 64 * 8
     addrMbz a = true ∧ a.toNat % 8 ≠ 0 ∧
       ∀ ac, ac = .load ∨ ac = .loadRx ∨ ac = .store →
         ∀ pl lf, placeOf (put base 1 4) (put base 1 4).th.agent ac 8 a = .ok (pl, lf) → pl.refuses ac = false) ∧
    (∀ ac, ac = .loadRx ∨ ac = .store → ∃ x, placeOf doorS doorS.th.agent ac 8 (doorS.rd 1 + (0 : BitVec 10).signExtend 64 * 8) = .ok x ∧
      addrMbz (doorS.rd 1 + (0 : BitVec 10).signExtend 64 * 8) = true ∧ x.1.refuses ac = true) ∧
    (let s := put base 1 0x400000
     let a := s.rd 1 + (0 : BitVec 10).signExtend 64 * 8
     addrMbz a = true ∧ a.toNat % 8 = 0 ∧ addrSpace a = 0 ∧ resolveLocal (s.partOf s.th.part) s.th.agent a = none) :=
  ⟨⟨base_free _, base_settled, by decide +kernel⟩, by decide +kernel,
    ⟨by decide +kernel, by decide +kernel, by
      rintro ac (rfl | rfl | rfl) pl lf h <;> · have e := Except.ok.inj h; cases e; rfl⟩,
    by rintro ac (rfl | rfl) <;> exact ⟨_, rfl, by decide +kernel⟩, by decide +kernel⟩

/-- HeldWords: a HOLD without its grant, a free word, a word that the thread holds, and a second HOLD. -/
theorem witness_HeldWords :
    (th at1 fun t => { t with holding := some 0x1000 }).awaiting = true ∧
    (at1.Free [2, 1] ∧ at1.Calm ∧ at1.Canonical ∧ at1.Reaches .feBoth 8 (at1.rd 1 + (0 : BitVec 10).signExtend 64 * 8) pl1 ∧
      at1.th.holding = none ∧ at1.held.find? (fun h => h.key = pl1.key) = none) ∧
    (let h : HeldWord := ⟨0x1000, .thread 0, 0, false, []⟩
     let s0 : State := { at1 with held := [h] }
     let s := th s0 fun t => { t with holding := some 0x1000, holdAddr := s0.absAddr (ownAddr 0x1000) }
     s.Free [2, 1] ∧ s.Calm ∧ s.Canonical ∧ s.Reaches .feBoth 8 (s.rd 1 + (0 : BitVec 10).signExtend 64 * 8) pl1 ∧
       s.held = [h] ∧ h.key = pl1.key ∧ h.holder = .thread s.th.tid ∧ h.queue = [] ∧ s.th.holding = some pl1.key ∧
       s.th.holdAddr = s.absAddr (s.rd 1 + (0 : BitVec 10).signExtend 64 * 8) ∧
       (∀ w ∈ s.waiters, ¬(wordKey w.place ≤ wordKey pl1.key ∧ wordKey pl1.key < w.place + w.size)) ∧ s.th.holding ≠ none) :=
  ⟨by decide +kernel, ⟨free_of rfl _, at1_calm, at1_canonical, reaches_of rfl rfl rfl rfl, by decide +kernel⟩,
    ⟨free_of rfl _, calm_of (by decide +kernel), by unfold State.Canonical; decide, reaches_of rfl rfl rfl rfl, by decide +kernel⟩⟩

/-- The partition may use all of the SBM of die 0, and w1 holds an address in it. -/
def sbm1 : State := put (pa base fun p => { p with sbmwin := 0x100000FFF0000 }) 1 0x4000000000001000

/-- FarOperations: an SBM word, and an address outside SBM. -/
theorem witness_FarOperations :
    (∃ pl, sbm1.Free [2, 1] ∧ sbm1.Calm ∧ sbm1.Canonical ∧ addrSpace (sbm1.rd 1 + (0 : BitVec 10).signExtend 64 * 8) = 1 ∧
      sbm1.Reaches .store 8 (sbm1.rd 1 + (0 : BitVec 10).signExtend 64 * 8) pl ∧ sbm1.Unwatched pl.key 8) ∧
    (at1.Free [2, 1] ∧ at1.Calm ∧ at1.Canonical ∧ addrSpace (at1.rd 1 + (0 : BitVec 10).signExtend 64 * 8) ≠ 1 ∧ at1.Settled ∧
      at1.th.st tSP = false) :=
  ⟨⟨_, free_of rfl _, calm_of (by decide +kernel), by unfold State.Canonical; decide, by decide +kernel,
      reaches_of rfl rfl rfl (by decide +kernel), ⟨rfl, by decide +kernel⟩⟩,
    ⟨free_of rfl _, at1_calm, at1_canonical, by decide +kernel, settled_of (by decide +kernel) rfl, by decide +kernel⟩⟩

/-- Fences: nothing outstanding, a host store outstanding, and a relaxed store that waits behind another thread's hold. -/
theorem witness_Fences :
    (base.th.pipe.held = [] ∧ (∀ w ∈ base.waiters, w.owner ≠ some base.th.tid) ∧ base.th.pipe.lost = none ∧ base.th.postsOut = false) ∧
    (let s := th base fun t => { t with pipe := { t.pipe with posted := 1 } }
     s.th.pipe.held = [] ∧ s.waiters = [] ∧ s.th.pipe.lost = none ∧ s.th.postsOut = true ∧ s.th.gang = none) ∧
    (let w : Waiter := ⟨some 0, pl1, 8, 0x1000, .store 1 3, 0, 0, none, none, 0⟩
     let s : State := { base with waiters := [w] }
     s.th.pipe.held = [] ∧ w ∈ s.waiters ∧ w.owner = some s.th.tid ∧ w.op.relaxed = true) := by decide +kernel

/-- WorkLists: a list with an entry, a task in the quad's dispenser, neither; the register clashes that WLPOP's decoder excludes are absent. -/
theorem witness_WorkLists :
    (let s := co base fun c => { c with wlbase := 0x8000, wlsize := 0x100, wlCount := 1 }
     s.Free [5, 1, 2, 3, 4] ∧ s.Calm ∧ s.th.gang = none ∧ s.core.wlBad = false ∧ s.core.wlCount ≠ 0 ∧ s.Canonical ∧
       (∀ x ∈ s.threads, x.isWaitingWork = false) ∧ s.core.wlCount < s.core.wlCap ∧ s.Free [2, 3, 4, 2 + 1]) ∧
    (let s := { base with dispensers := [⟨0, [(1, 2, 3, 4)], 1, 3⟩] }
     s.Free [5, 1, 2, 3, 4] ∧ s.Calm ∧ s.th.gang = none ∧ s.core.wlCount = 0 ∧
       (s.dispenser (cidQuad s.th.cid)).tasks = [(1, 2, 3, 4)] ∧ s.waiters = [] ∧ ∀ x ∈ s.threads, x.isWaitingWork = false) ∧
    (base.Calm ∧ base.th.gang = none ∧ base.core.wlCount = 0 ∧ (base.dispenser (cidQuad base.th.cid)).tasks = [] ∧
      base.core.wlBad = false ∧ base.core.wlCap ≤ base.core.wlCount) ∧
    ((2 : Reg) &&& 1 = 0 ∧ (2 : Reg) ≠ 0 ∧ (4 : Reg) ≠ 2 ∧ (4 : Reg) ≠ 2 + 1) :=
  ⟨⟨free_of rfl _, calm_of (by decide +kernel), rfl, by decide +kernel, by decide +kernel, by unfold State.Canonical; decide, by decide +kernel, by decide +kernel,
    free_of rfl _⟩, ⟨free_of rfl _, calm_of (by decide +kernel), rfl, rfl, rfl, rfl, by decide +kernel⟩, ⟨base_calm, by decide +kernel⟩, by decide +kernel⟩

/-- A launch record at the address in w1: one identifier of the whole partition. -/
def record1 : State := { at1 with mem := Mem.writeN (Mem.writeN [] 0x1008 8 0x2000) 0x1018 8 1 }

/-- ThreadLaunch: a record that passes the checks. -/
theorem witness_ThreadLaunch :
    record1.Free [2, 1] ∧ record1.Calm ∧ record1.part.num = record1.th.part ∧ record1.Reaches .unitRead 128 (record1.rd 1) pl1 ∧
    recordStatus record1.part (unitWords record1 record1.part pl1 16) = 0 :=
  ⟨free_of rfl _, calm_of (by decide +kernel), rfl, reaches_of rfl rfl rfl rfl, rfl⟩

/-- YieldAndMigrate: the thread's own core; a thread that may not move; a target without a core; a target with one. -/
theorem witness_YieldAndMigrate :
    (let s := put base 1 0
     s.Free [2, 1] ∧ s.Calm ∧ s.th.gang = none ∧ addrMbz (s.rd 1) = true ∧ addrSpace (s.rd 1) = 0 ∧
       resolveLocal s.part s.th.agent (s.rd 1) = some (s.th.ident.ly, s.th.ident.lx)) ∧
    (let s := put (bitSet base tSPEC) 1 0x8200000
     resolveLocal s.part s.th.agent (s.rd 1) = some (1, 1) ∧ (1, 1) ≠ (s.th.ident.ly, s.th.ident.lx) ∧ s.mayMove = false) ∧
    (let s := put (pa base fun p => { p with map := [((1 : BitVec 7) ++ (1 : BitVec 6), .shadow 5)] }) 1 0x8200000
     resolveLocal s.part s.th.agent (s.rd 1) = some (1, 1) ∧ s.mayMove = true ∧ s.part.running 1 1 = none) ∧
    (let s := put base 1 0x8200000
     resolveLocal s.part s.th.agent (s.rd 1) = some (1, 1) ∧ (1, 1) ≠ (s.th.ident.ly, s.th.ident.lx) ∧ s.mayMove = true ∧
       s.part.running 1 1 = some (mkCid 1 1) ∧ s.th.pipe.pend = [] ∧ s.core.vq = []) :=
  ⟨⟨free_of rfl _, calm_of (by decide +kernel), by decide +kernel⟩, by decide +kernel, by decide +kernel, by decide +kernel⟩

/-- Gangs: a size that does not fit, a follower without a core, a slot taken by a thread and as a home, and a gang that forms; a member. -/
theorem witness_Gangs :
    (base.Free [2] ∧ base.Calm ∧ base.th.pipe.pend = [] ∧ base.core.vq = [] ∧ base.th.gang = none ∧ base.th.bound = false ∧
      base.th.st tSPEC = false ∧ base.th.st tBOOST = false ∧ base.th.holding = none) ∧
    base.part.W < base.th.ident.lx.toNat + 2 ^ (2 : Reg).toNat ∧
    (let s := pa base fun p => { p with map := [((0 : BitVec 7) ++ (1 : BitVec 6), .shadow 5)] }
     s.Calm ∧ s.th.ident.lx.toNat % 2 = 0 ∧ s.th.ident.lx.toNat + 2 ≤ s.part.W ∧ gangCores s.part s.th.ident.ly s.th.ident.lx 2 = none) ∧
    (let s := { base with others := [{ Thread.unpopulated (mkTid 1 0) with active := true }] }
     s.Calm ∧ gangCores s.part s.th.ident.ly s.th.ident.lx 2 = some [0, 1] ∧
       1 ∈ [(0 : Cid), 1].drop 1 ∧ s.slotTaken (mkTid 1 s.th.slot) = true) ∧
    ({ th base (fun t => { t with home := mkTid 1 0 }) with cores := [{ Core.initial 1 with owner := some 0 }] } : State).slotTaken (mkTid 1 0) = true ∧
    (gangCores base.part base.th.ident.ly base.th.ident.lx 2 = some [0, 1] ∧ [(0 : Cid), 1].Nodup ∧
      [(0 : Cid), 1].head? = some base.th.cid ∧ [(0 : Cid), 1].drop 1 = [1] ∧
      base.slotTaken (mkTid 1 base.th.slot) = false) ∧
    (th base fun t => { t with gang := some (0, 1) }).th.gang = some (0, 1) :=
  ⟨⟨base_free _, base_calm, by decide +kernel⟩, by decide +kernel, ⟨calm_of (by decide +kernel), by decide +kernel⟩, ⟨calm_of (by decide +kernel), by decide +kernel⟩, by decide +kernel, by decide +kernel, rfl⟩

/-- A partition of eight columns in one row, the thread in its first. -/
def wideS : State := pa base fun p => { p with hm1 := 0, wm1 := 7 }

/-- Gangs of two and of eight, the smallest and the largest, that form. -/
theorem witness_Gangs_sizes :
    (1 ≤ (1 : Reg).toNat ∧ (3 : Reg).toNat ≤ 3) ∧ (wideS.Free [2] ∧ wideS.Calm ∧ wideS.th.gang = none) ∧
    (let cs : List Cid := [0, 1, 2, 3, 4, 5, 6, 7]
     wideS.th.ident.lx.toNat % 2 ^ (3 : Reg).toNat = 0 ∧ wideS.th.ident.lx.toNat + 2 ^ (3 : Reg).toNat ≤ wideS.part.W ∧
       gangCores wideS.part wideS.th.ident.ly wideS.th.ident.lx (2 ^ (3 : Reg).toNat) = some cs ∧ cs.Nodup ∧ cs.head? = some wideS.th.cid ∧
       ∀ x ∈ cs.drop 1, wideS.slotTaken (mkTid x wideS.th.slot) = false) :=
  ⟨by decide, ⟨free_of rfl _, calm_of (by decide +kernel), rfl⟩, by decide +kernel⟩

/-- A ring of 512 bytes with one message at VT 7, in the state given. -/
def ringed (st : Nat) : State :=
  let s := th base fun t => { t with ring := { t.ring with mrbase := 0x2000, mrsize := 0x200, head := 0x2000, tail := 0x2020, used := 32 } }
  { s with mem := Mem.writeN (Mem.writeN [] 0x2000 8 7) 0x2008 8 (st * 256 + 0x800) }

/-- Messages: a send, a send below LVT by a bound thread, a delivery, and an empty ring. -/
theorem witness_Messages :
    (at1.Free [1, 2, 3, 4] ∧ at1.Calm ∧ at1.th.bound = false ∧ at1.th.logs = false ∧
      resolveHandle at1.part at1.th.agent (at1.rd 2) = .ok (0, 0, 0) ∧
      payloadOff at1.part at1.th (at1.rd 1) 1 = .ok 0x1000 ∧ at1.poisonIn (at1.ownPlace at1.th 0x1000).key 8 = none ∧
      at1.bufferFull at1.th.cid = false) ∧
    (let s := th base fun t => { t with ax := { t.ax with axis := 0x8000000000000000, lvt := 1 } }
     s.th.bound = true ∧ (s.rd 3).toNat < s.th.ax.lvt.toNat) ∧
    ((ringed 0).Free [5] ∧ (ringed 0).Calm ∧ (5 : Reg) ≠ 0 ∧ (ringed 0).Canonical ∧
      (∃ m, (ringed 0).candidate (ringed 0).th = some m ∧ (ringed 0).th.needsCheckpoint m.2.1 = false)) ∧
    base.candidate base.th = none :=
  ⟨⟨free_of rfl _, at1_calm, by decide +kernel, by decide +kernel, rfl, rfl, rfl, by decide +kernel⟩, by decide +kernel,
    ⟨free_of rfl _, calm_of (by decide +kernel), by decide +kernel, by unfold State.Canonical; decide, ⟨(0x2000, 7, 0x800), by decide +kernel⟩⟩, by decide +kernel⟩

/-- The thread logs: it is bound to reduced axis 5 in speculation, and its rewind stack has room for six records. -/
def logging (s : State) : State := th (bitSet s tSPEC) fun t => { t with
  ax := { t.ax with axis := 0x8000000000000005 }, rw := { t.rw with rsbase := 0x8000, rslim := 0x80C0, rstk := 0x8000, bottom := 0x8000 } }

/-- Messages of a thread that logs: a send, and a delivery above LVT, for which the stack has just the room of a checkpoint. -/
theorem witness_Messages_logging :
    (let s := logging at1
     s.Free [1, 2, 3, 4] ∧ s.Calm ∧ s.Canonical ∧ s.th.logs = true ∧ s.th.rw.free ≠ 0 ∧ s.th.ax.lvt.toNat ≤ (s.rd 3).toNat ∧
       resolveHandle s.part s.th.agent (s.rd 2) = .ok (0, 0, 0) ∧ payloadOff s.part s.th (s.rd 1) 16 = .ok 0x1000 ∧
       s.poisonIn (s.ownPlace s.th 0x1000).key (8 * 16) = none ∧ s.bufferFull s.th.cid = false) ∧
    (let s := logging (ringed 0)
     s.Free [15] ∧ s.Calm ∧ s.Canonical ∧ ∃ m, s.candidate s.th = some m ∧ s.th.needsCheckpoint m.2.1 = true ∧ 5 ≤ s.th.rw.free) :=
  ⟨⟨free_of rfl _, calm_of (by decide +kernel), by unfold State.Canonical; decide, by decide +kernel, by decide +kernel, by decide +kernel, rfl, rfl, rfl,
      by decide +kernel⟩,
    free_of rfl _, calm_of (by decide +kernel), by unfold State.Canonical; decide, ⟨(0x2000, 7, 0x800), by decide +kernel⟩⟩

/-- MessageDone: a delivered message, one that is not, an address outside the thread's ring, and a header that is DONE. -/
theorem witness_MessageDone :
    (let s := put (ringed 1) 1 (ownAddr 0x2000)
     s.Free [1] ∧ s.Canonical ∧ addrMbz (s.rd 1) = true ∧ addrSpace (s.rd 1) = 3 ∧
       resolveLocal s.part s.th.agent (s.rd 1) = some (s.th.ident.ly, s.th.ident.lx) ∧
       (∃ m, (s.slots s.th).find? (fun m => m.1 = (s.rd 1).toNat % 2 ^ 21) = some m ∧ hdrState m.2.2 = 1)) ∧
    (let s := put (ringed 0) 1 (ownAddr 0x2000)
     ∃ m, (s.slots s.th).find? (fun m => m.1 = (s.rd 1).toNat % 2 ^ 21) = some m ∧ hdrState m.2.2 ≠ 1) ∧
    addrMbz ((put base 1 0x400000000).rd 1) = false ∧ hdrState 0x200 = 2 :=
  ⟨⟨free_of rfl _, by unfold State.Canonical; decide, by decide +kernel, by decide +kernel, by decide +kernel, ⟨(0x2000, 7, 0x900), by decide +kernel⟩⟩,
    ⟨(0x2000, 7, 0x800), by decide +kernel⟩,
    by decide +kernel, by decide +kernel⟩

/-- A thread bound to the reduced axis 5. -/
def bound5 : State := th base fun t => { t with ax := { t.ax with axis := 0x8000000000000005 } }
/-- The frame axis 64, allotted to partition 0, with a window of 4. -/
def axis64 : FrameAxis := { (base.axisOf 64) with word0 := 0x8000000000000000, window := 4 }
/-- The machine with that axis, the thread bound to it. -/
def frames64 : State :=
  { (th base fun t => { t with ax := { t.ax with axis := 0xA000000000000040 } }) with axes := [axis64] }

/-- AxisBinding: each mode's conditions, at the ends of the ranges of axes and windows. -/
theorem witness_AxisBinding :
    (let s := put base 1 63
     s.Free [1, 2, 3] ∧ s.th.gang = none ∧ s.rd 3 = 0 ∧ s.th.bound = false ∧ (s.rd 1).toNat ≤ 63) ∧
    (let s := put (put (put { base with axes := [axis64] } 1 64) 2 256) 3 1
     s.Free [1, 2, 3] ∧ s.th.gang = none ∧ s.rd 3 = 1 ∧ s.th.bound = false ∧ 64 ≤ (s.rd 1).toNat ∧ (s.rd 1).toNat ≤ 16383 ∧
       (s.axisOf ((s.rd 1).setWidth 14)).owner = some s.th.part ∧ s.boundTo s.th.part (s.rd 1).toNat = [] ∧
       1 ≤ (s.rd 2).toNat % 512 ∧ (s.rd 2).toNat % 512 ≤ 256 ∧ (s.axisOf ((s.rd 1).setWidth 14)).draining = false) ∧
    (let s := put base 3 2
     s.rd 3 = 2 ∧ s.th.bound = false ∧ s.th.st tBOOST = false) ∧
    3 ≤ ((put base 3 3).rd 3).toNat ∧ (bound5.rd 3 = 0 ∧ bound5.th.bound = true) ∧
    ((put base 1 64).rd 3 = 0 ∧ 63 < ((put base 1 64).rd 1).toNat) :=
  ⟨⟨free_of rfl _, by decide +kernel⟩, ⟨free_of rfl _, by decide +kernel⟩, by decide +kernel⟩

/-- A rewind stack of 4,096 bytes at 0x8000. -/
def stacked (s : State) : State := th s fun t => { t with rw := { t.rw with rsbase := 0x8000, rslim := 0x9000, rstk := 0x8000, bottom := 0x8000 } }

/-- BoostedTasks: a task that opens, one that ends, TEND outside one; ABOP outside a task, of a refused kind, and of kind 2. -/
theorem witness_BoostedTasks :
    (let s := stacked (put bound5 1 2)
     s.Free [1] ∧ s.Calm ∧ s.th.taskIllegal (s.rd 1) = false ∧ s.th.ax.waittag = none ∧ 5 ≤ s.th.rw.free) ∧
    ((bitSet base tBOOST).th.gang = none ∧ (bitSet base tBOOST).th.st tBOOST = true) ∧ base.th.st tBOOST = false ∧
    (let s := bitSet base tBOOST
     s.Free [5, 1, 2, 3] ∧ s.Calm ∧ s.th.st tUNW = false ∧ s.th.st tSP = false ∧ (s.rd 3).toNat ≤ 1) ∧
    (let s := put (put (stacked (bitSet sbm1 tBOOST)) 2 (ownAddr 0x1000)) 3 2
     ∃ ps pl, s.Free [5, 1, 2, 3] ∧ s.Calm ∧ s.th.gang = none ∧ s.th.st tBOOST = true ∧ s.th.st tUNW = false ∧ s.th.st tSP = false ∧
       s.rd 3 = 2 ∧ s.Canonical ∧ placesFrom s .unitRead 8 2 (s.rd 2) = .ok ps ∧ (∀ p ∈ ps, s.poisonIn p.2.key 8 = none) ∧
       addrSpace (s.rd 1) = 1 ∧ s.Reaches .store 8 (s.rd 1) pl ∧ s.heldByOther (some s.th.tid) pl.key 8 = none ∧
       s.rivals (s.rd 1) s.th.opVt = [] ∧ s.waysUsed (s.rd 1) < 8 ∧ s.th.rw.free ≠ 0) :=
  ⟨⟨free_of rfl _, calm_of (by decide +kernel), by decide +kernel, by decide +kernel, by decide +kernel⟩, by decide +kernel, by decide +kernel,
    ⟨free_of rfl _, calm_of (by decide +kernel), by decide +kernel⟩,
    ⟨_, _, free_of rfl _, calm_of (by decide +kernel), by decide +kernel, by decide +kernel, by decide +kernel, by decide +kernel, by decide +kernel, by unfold State.Canonical; decide, rfl,
      by decide +kernel, by decide +kernel, reaches_of rfl rfl rfl (by decide +kernel), rfl, by decide +kernel, by decide +kernel, by decide +kernel⟩⟩

/-- BoostedTasks, the directory entry of an ABOP: one of its own already there, and none. -/
theorem witness_BoostedTasks_entry :
    let s := put (put (stacked (bitSet sbm1 tBOOST)) 2 (ownAddr 0x1000)) 3 2
    let e : DirEntry := { id := 3, die := homeDie (s.rd 1), part := 0, axis := 0, owner := s.th.handle, tvt := s.th.ax.tvt, handle := s.rd 1,
                          kind := 2, arg0 := 0, pushno := 0 }
    let u : State := { s with dir := [e] }
    (s.dir = [] ∧ s.th.bound = false) ∧ u.dir = [e] ∧ u.Calm ∧ u.rivals (u.rd 1) u.th.opVt = [] ∧ u.waysUsed (u.rd 1) < 8 ∧ u.th.rw.free ≠ 0 :=
  ⟨by decide +kernel, rfl, calm_of (by decide +kernel), by decide +kernel⟩

/-- FramesAndTokens: a frame that opens, an id without a frame, a frame by its id, a token below the horizon, a token in the window, one for which
there is no room, and one behind a thread that waits for room. -/
theorem witness_FramesAndTokens :
    (let s := stacked (put frames64 1 5)
     s.Free [2, 1] ∧ s.Calm ∧ s.th.gang = none ∧ s.th.bound = true ∧ s.th.axisMode = 1 ∧ (s.rd 1).toNat < 2 ^ 32 ∧
       s.th.ax.rwd = false ∧ 5 ≤ s.th.rw.free ∧ s.th.ax.lvt.toNat < (s.rd 1).toNat ∧
       (s.axisOf s.th.frameAxis).retains (s.rd 1) = false ∧ s.th.rollTarget = none ∧ (s.axisOf s.th.frameAxis).frames.length < 8) ∧
    base.frameNamed (base.rd 1) = none ∧
    (let s := put { frames64 with axes := [{ axis64 with frames := [(5, true)] }] } 1 0x4000000005
     ∃ x, s.frameNamed (s.rd 1) = some x) ∧
    (let s := { frames64 with axes := [{ axis64 with hzn := 1 }] }
     s.Free [2, 1, 3, 4] ∧ s.Calm ∧ s.th.bound = true ∧ s.th.axisMode = 1 ∧ (s.rd 3).toNat < 2 ^ 32 ∧ s.th.rollTarget = none ∧
       (s.rd 3).toNat < (s.axisOf s.th.frameAxis).hzn.toNat) ∧
    (let x := frames64.axisOf frames64.th.frameAxis
     x.hzn.toNat ≤ (frames64.rd 3).toNat ∧ x.retains (frames64.rd 3) = false ∧ x.tokens.length < x.window.toNat ∧
       frames64.aheadForTokens frames64.th.axisNum = false) ∧
    (let s := put { frames64 with axes := [{ axis64 with window := 1, tokens := [⟨7, 1, 1⟩] }] } 3 8
     let x := s.axisOf s.th.frameAxis
     x.retains (s.rd 3) = false ∧ x.window.toNat ≤ x.tokens.length) ∧
    (let y : Thread := { Thread.unpopulated 9 with active := true, pipe := { (Thread.unpopulated 9).pipe with park := some (.tokens 64) } }
     ({ frames64 with others := [y] } : State).aheadForTokens frames64.th.axisNum = true) :=
  ⟨⟨free_of rfl _, calm_of (by decide +kernel), by decide +kernel⟩, by decide +kernel, ⟨_, rfl⟩, ⟨free_of rfl _, calm_of (by decide +kernel), by decide +kernel⟩,
    by decide +kernel, by decide +kernel, by decide +kernel⟩

/-- RollBack: a pending event; a ROLL in a handler; one with an empty stack; and one at a checkpoint of VT 0 with an all-ones target. -/
theorem witness_RollBack :
    (let s := th base fun t => { t with rw := { t.rw with event := some 0 } }
     s.th.active = true ∧ s.core.cid = s.th.cid ∧ s.part.num = s.th.part ∧ s.Settled ∧ s.th.pipe.held = [] ∧ s.th.rw.event = some 0 ∧
       s.th.rw.vectored = none ∧ s.th.rw.target = none ∧ s.th.st tSP = false ∧ (0 : Word) ≤ s.th.ax.lvt) ∧
    (bitSet base tSP).th.st tSP = true ∧
    (base.Free [1] ∧ base.Calm ∧ base.th.pipe.pend = [] ∧ base.th.st tSP = false ∧ base.th.gang = none ∧ base.th.rw.count = 0 ∧
      base.th.bound = false) ∧
    (let s0 := stacked (put base 1 (BitVec.allOnes 64))
     let s := th s0 fun t => { t with rw := { t.rw with count := 5, rstk := 0x80A0, newest := some 0x8080 } }
     s.Free [1] ∧ s.Calm ∧ s.th.ring.used = 0 ∧ s.messages = [] ∧ s.core.mx.run = none ∧ s.th.rw.count ≠ 0 ∧ s.th.rw.event = none ∧
       s.th.rw.target = none ∧ s.th.topCheckpoint = some 0x8080 ∧ s.rd 1 = BitVec.allOnes 64) :=
  ⟨⟨by decide +kernel, by decide +kernel, by decide +kernel, settled_of (by decide +kernel) rfl, by decide +kernel⟩, by decide +kernel, ⟨base_free _, base_calm, by decide +kernel⟩,
    ⟨free_of rfl _, calm_of (by decide +kernel), by decide +kernel⟩⟩

/-- DeferEffects: a record of class 0, a store. -/
theorem witness_DeferEffects :
    at1.Free [2, 1, 3] ∧ at1.Calm ∧ at1.Reaches .unitRead 64 (at1.rd 1) pl1 ∧ at1.th.logs = false ∧
    effectRefused (recWord (unitWords at1 at1.part pl1 8) 0) = false ∧ bits (recWord (unitWords at1 at1.part pl1 8) 0) 1 0 = 0 ∧
    at1.core.queued < 64 :=
  ⟨free_of rfl _, at1_calm, reaches_of rfl rfl rfl rfl, by decide +kernel⟩

/-- DeferEffects where the DEFER parked since it read its record, and for a thread that logs. -/
theorem witness_DeferEffects_parked :
    let s := th (logging at1) fun t => { t with pipe := { t.pipe with record := some [0x10, 0, 7] } }
    s.Free [2, 1, 3] ∧ s.Calm ∧ s.Canonical ∧ s.th.logs = true ∧ s.th.rw.free ≠ 0 ∧ s.th.pipe.record = some [0x10, 0, 7] ∧
      bits (recWord [0x10, 0, 7] 0) 1 0 = 0 ∧ s.core.queued < 64 :=
  ⟨free_of rfl _, calm_of (by decide +kernel), by unfold State.Canonical; decide, by decide +kernel⟩

theorem ok_of {α ε : Type} {e : Except ε α} (p : α → Bool) (h : (match e with
    | .ok x => p x
    | .error _ => false) = true) : ∃ x, e = .ok x ∧ p x = true := by
  cases e with
  | ok x => exact ⟨x, rfl, h⟩
  | error _ => cases h

/-- Vector instruction `i` of the thread at the head of the engine's queue. -/
def queuedV (i : Instr) : State := co base fun c => { c with vq := [⟨0, i, 0, 0⟩] }

/-- VectorQueueing, VectorEngine and VectorAccesses: room in the queue and budget for the dearest charge; an instruction at the head of the
queue; addresses of a whole vector and of sixteen halves. -/
theorem witness_vector :
    (base.FreeVec [1, 2, 4, 4 + 1, 1 + 1] ∧ base.Free [2, 4] ∧ base.core.vq.length < 2 ∧
      quarters (base.rdm 0) 16 * 16 ≤ base.th.pipe.ebud.toNat) ∧
    ((queuedV (.vadd 1 2 3 0 3 0)).core.cid = (queuedV (.vadd 1 2 3 0 3 0)).th.cid ∧
      (queuedV (.vadd 1 2 3 0 3 0)).core.vq = [⟨(queuedV (.vadd 1 2 3 0 3 0)).th.tid, .vadd 1 2 3 0 3 0, 0, 0⟩]) ∧
    (at1.Free [1, 2] ∧ at1.FreeVec [3, 2] ∧ at1.Calm ∧ at1.Canonical ∧ at1.core.vq = [] ∧ 4 ≤ at1.th.pipe.ebud.toNat ∧ at1.Unlogged) ∧
    (at1.Reaches .read 64 (at1.rd 1 + (0 : BitVec 6).signExtend 64 * 64) pl1 ∧
      at1.Reaches .store 64 (at1.rd 1 + (0 : BitVec 6).signExtend 64 * 64) pl1 ∧
      at1.heldByOther (some at1.th.tid) pl1.key 64 = none) ∧
    (∃ ps, placesOf at1 .read 4 ((List.range 16).map fun j => (at1.rd 1 + (0 : BitVec 6).signExtend 64 * 64) + BitVec.ofNat 64 j * at1.rd 2) =
      .ok ps ∧ ∀ p ∈ ps, at1.poisonIn p.2.key 4 = none ∧ at1.Keyed p.2 4 ∧ at1.heldByOther (some at1.th.tid) p.2.key 4 = none) ∧
    (∃ ps, placesOf at1 .read 4 ((List.range 16).map fun j => (at1.rd 1 + (0 : BitVec 6).signExtend 64 * 64) +
      BitVec.ofNat 64 (lane 32 (at1.rdv 2) j)) = .ok ps ∧
      (ps.all fun p => at1.poisonIn p.2.key 4 = none && (blocksOf p.2.key 4).isEmpty && at1.heldByOther (some at1.th.tid) p.2.key 4 = none) = true) :=
  ⟨⟨freeVec_of rfl _, base_free _, by decide +kernel⟩, by decide +kernel,
    ⟨free_of rfl _, freeVec_of rfl _, at1_calm, at1_canonical, by decide +kernel, by decide +kernel, at1_unlogged⟩,
    ⟨reaches_of rfl rfl rfl rfl, reaches_of rfl rfl rfl rfl, rfl⟩, ⟨_, rfl, fun p hp => ⟨(every_of (P := fun p => at1.poisonIn p.2.key 4 = none) (by decide +kernel)) p hp,
      keyed_of ((every_of (P := fun p => blocksOf p.2.key 4 = []) (by decide +kernel)) p hp),
      (every_of (P := fun p => at1.heldByOther (some at1.th.tid) p.2.key 4 = none) (by decide +kernel)) p hp⟩⟩, ok_of _ (by decide +kernel)⟩

/-- VectorQueueing without budget: for a slot that has issued no vector instruction since the refill, and for one that has. VectorEngine: both ends of
the element types, of the comparisons, of the scale codes' formats and of the reductions; a mask with lanes and one without. -/
theorem witness_vector_more :
    (let s := th base fun t => { t with pipe := { t.pipe with ebud := 0 } }
     s.FreeVec [1, 2, 3, 3 + 1, 1 + 1] ∧ s.th.pipe.vecIssued = false ∧ s.th.pipe.ebud.toNat < quarters (s.rdm 0) 16 * 1) ∧
    (let s := th base fun t => { t with pipe := { t.pipe with ebud := 0, vecIssued := true } }
     s.FreeVec [1, 2, 3, 3 + 1, 1 + 1] ∧ s.core.vq.length < 2 ∧ s.th.pipe.vecIssued = true ∧ s.th.pipe.ebud.toNat < quarters (s.rdm 0) 16 * 1) ∧
    ((0 : Reg).toNat < 5 ∧ (4 : Reg).toNat < 5 ∧ ¬(5 : Reg).toNat < 5 ∧ (11 : Reg).toNat < 12) ∧
    ((0 : BitVec 3).toNat < 6 ∧ (5 : BitVec 3).toNat < 6 ∧ (3 : BitVec 2) ≠ 0 ∧ (2 : Reg).toNat < 3) ∧
    (((List.range 4).filter fun j => (base.rdm 0).getLsbD j) = [0, 1, 2, 3] ∧ ((List.range 4).filter fun j => (base.rdm 1).getLsbD j) = []) ∧
    (5 ≤ (5 : Reg).toNat ∧ (8 : Reg).toNat ≤ 8 ∧ (1 : Reg) ≠ 2) ∧
    (queuedV (.vred 1 2 0 1 3 0)).core.vq = [⟨(queuedV (.vred 1 2 0 1 3 0)).th.tid, .vred 1 2 0 1 3 0, 0, 0⟩] :=
  ⟨⟨freeVec_of rfl _, by decide +kernel⟩, ⟨freeVec_of rfl _, by decide +kernel⟩, by decide +kernel⟩

/-- VectorAccesses of a word that another thread holds. -/
theorem witness_VectorAccesses_held :
    let s := { at1 with held := [⟨0x1038, .thread 9, 0, false, []⟩] }
    s.Free [1, 2] ∧ s.FreeVec [3, 2] ∧ s.Calm ∧ s.Canonical ∧ s.core.vq = [] ∧ 4 ≤ s.th.pipe.ebud.toNat ∧
      s.Reaches .read 64 (s.rd 1 + (0 : BitVec 6).signExtend 64 * 64) pl1 ∧ s.heldByOther (some s.th.tid) pl1.key 64 ≠ none :=
  ⟨free_of rfl _, freeVec_of rfl _, calm_of (by decide +kernel), by unfold State.Canonical; decide, rfl, by decide +kernel, reaches_of rfl rfl rfl rfl, by decide +kernel⟩

/-- A matrix instruction at the head of the core's queue. -/
def queuedM (o : MxOp) : State := co base fun c => { c with mx := { c.mx with queue := [o] } }
/-- A ring of two slots of 4,096 bytes, with one tile pushed, at `b`. -/
def ring1 (b : Nat) : MxRing := { qc := 0, nslot := 2, tile := 64, base := b, head := 0, tail := 1 }
/-- Rings 2 and 3 of the core are such rings. -/
def ringsM (s : State) : State := co s fun c => { c with mx := (c.mx.setRing 2 (ring1 0x4000)).setRing 3 (ring1 0x6000) }
/-- An MMA of one step on those rings. -/
def mma1 : Instr := .mma 1 2 3 0 0 0 0 0
/-- The MMA as it runs. -/
def run1 : MmaRun := { owner := 0, acc := 1, ra := 2, rb := 3, bka := 0, bkb := 0, zero := false, left := 1, step := 0, dup := false,
                       cfg := base.core.mx.cfg, map := 0 }

/-- MatrixUnit, at issue: room in the queue, quad places, a ring with room and a ring without. -/
theorem witness_MatrixUnit_issue :
    (at1.Free [2, 1] ∧ at1.Calm ∧ at1.th.displaced = false ∧ at1.core.mx.queue.length < 2) ∧
    quadPlace at1 64 (128 * viewRows 1) true (at1.rd 1) = .ok pl1 ∧ quadPlace at1 128 128 false (at1.rd 1) = .ok pl1 ∧
    (let r := (ringsM base).core.mx.ring 2
     r.nslot ≠ 0 ∧ r.tail - r.head + 1 ≤ r.nslot ∧ r.nslot < r.tail - r.head + 2) ∧ (base.core.mx.ring 2).nslot = 0 :=
  ⟨⟨free_of rfl _, at1_calm, by decide +kernel⟩, rfl, rfl, by decide +kernel, rfl⟩

/-- MatrixUnit, at the queue's head: each kind of head, good and refused words. -/
theorem witness_MatrixUnit_head :
    (base.Focused ∧ base.Quiet) ∧
    ((queuedM (.mcfg 0 2 0)).core.mx.queue = [.mcfg (queuedM (.mcfg 0 2 0)).th.tid 2 0] ∧ mcfgOf 0x800 = none ∧
      (mcfgOf 0).isSome = true ∧ mringOf 1 = none ∧ (mringOf 0).isSome = true ∧ (queuedM (.mring 0 2 0)).core.mx.run = none) ∧
    ((queuedM (.mzero 0 3)).core.mx.queue = [.mzero 0 3] ∧ (queuedM (.mzero 0 3)).core.mx.run = none) ∧
    (let s := ringsM (queuedM (.mma 0 mma1))
     s.core.mx.run = none ∧ captured s.core.mx 0 mma1 = some run1 ∧ mmaRefused s s.core.cid s.core.mx run1 = false) :=
  ⟨⟨base_focused, quiet_of (by decide +kernel)⟩, ⟨rfl, rfl, rfl, rfl, rfl, rfl⟩, ⟨rfl, rfl⟩, by decide +kernel⟩

/-- MatrixUnit, a step: a tile on both rings and the turn, a tile on one only, and no turn, the next core of the quad being due too. -/
theorem witness_MatrixUnit_step :
    (let s := co (ringsM base) fun c => { c with mx := { c.mx with run := some run1 } }
     s.core.mx.run = some run1 ∧ (s.core.mx.ring run1.ra).pushed = true ∧ (s.core.mx.ring run1.rb).pushed = true ∧
       s.unitTurn s.core.cid = true ∧
       stepErrors s run1 (headTile s s.core.cid (s.core.mx.ring run1.ra) run1.cfg.fa run1.cfg.sca run1.bka)
         (headTile s s.core.cid (s.core.mx.ring run1.rb) run1.cfg.fb run1.cfg.scb run1.bkb) = []) ∧
    (let s := co (ringsM base) fun c => { c with mx := { c.mx.setRing 3 { ring1 0x6000 with head := 1 } with run := some run1 } }
     s.core.mx.run = some run1 ∧ (s.core.mx.ring run1.rb).pushed = false) ∧
    (let s := co (ringsM base) fun c => { c with mx := { c.mx with run := some run1 } }
     let u : State := { s with cores := [{ s.core with cid := 1 }], dispensers := [⟨0, [], 0, 0⟩] }
     u.core.mx.run = some run1 ∧ u.unitTurn u.core.cid = false) := by decide +kernel

/-- A copy job of two granules of the thread, from 0x1000 to 0x3000 of its core's memory, in the state given. -/
def job1 (st : JobState) : Job :=
  { num := 0, owner := 0, src := 0x1000, dst := 0x3000, granules := 2, done := 0, skip := 0, gather := false, list := 0, chain := 0, nchain := 0,
    count := 0, pgran := 0, sources := none, st := st, status := 0, faultAt := 0, order := 0, record := none }
/-- The core with that job. -/
def jobbed (j : Job) : State := co base fun c => { c with jobs := [j] }
/-- A gather descriptor of one entry of one granule at the address in w1. -/
def gath1 : State := { at1 with mem := Mem.writeN (Mem.writeN [] 0x1000 8 0x3000) 0x1018 8 0x10001 }

/-- Engines: accepted and refused copies and gathers, results known and pending, faulted jobs; a job that may start, a granule, a walk. -/
theorem witness_Engines :
    (let s := put (put at1 2 (ownAddr 0x3000)) 3 64
     s.Free [2, 1, 3, 4] ∧ s.Calm ∧ s.th.logs = false ∧ rangeCause s true (s.rd 3).toNat (s.rd 2) = none ∧
       rangeCause s false (s.rd 3).toNat (s.rd 1) = none ∧ copyRefused (s.absAddr (s.rd 1)) (s.absAddr (s.rd 2)) (s.rd 3) = false ∧
       s.rd 3 ≠ 0 ∧ copyRefused (s.absAddr (s.rd 1)) (s.absAddr (s.rd 2)) 32 = true) ∧
    (base.Focused ∧ base.Quiet ∧ (base.rd 1).toNat ≤ 15 ∧ base.core.jobResult 0 = some 0xFF ∧ 15 < (16 : Word).toNat ∧
      (∀ j, base.core.job 0 = some j → j.st ≠ .faulted)) ∧
    ((jobbed (job1 .queued)).core.jobResult 0 = none ∧ (jobbed (job1 .faulted)).core.job 0 = some (job1 .faulted)) ∧
    (∃ ps, gath1.Calm ∧ gath1.Gives 32 1 (gath1.rd 1) ps ∧ gathRefused (pieceWords gath1 32 (ps.map (·.2))) = false ∧
      rangeCause gath1 true 64 0x3000 = none) ∧
    (∃ ps, at1.Gives 32 1 (at1.rd 1) ps ∧ gathRefused (pieceWords at1 32 (ps.map (·.2))) = true) ∧
    ((jobbed (job1 .queued)).core.job 0 = some (job1 .queued) ∧ (jobbed (job1 .queued)).core.mayStart (job1 .queued) = true) ∧
    (let s := jobbed (job1 .running)
     let ag := (s.thread 0).agent
     s.Quiet ∧ s.Canonical ∧ (∃ sp dp, resolve s ag .engineRead 64 0x1000 = .ok sp ∧ dataError s sp 0x1000 64 = none ∧
       sp.Ordinary (s.partOf ag.part) 8 ∧ resolve s ag .engineWrite 64 0x3000 = .ok dp ∧ s.heldByOther (some 0) dp.key 64 = none ∧
       s.Keyed sp 64 ∧ s.Keyed dp 64 ∧ s.pathTaken s.core.cid sp.key = false ∧ s.pathTaken s.core.cid dp.key = false)) ∧
    (let j := { job1 .running with gather := true, count := 1, pgran := 1, chain := 0x2000, nchain := 1, list := 0x1000 }
     ∃ srcs, gathSources (jobbed j) ((jobbed j).thread 0).agent j j.count 0 = .ok srcs) :=
  ⟨⟨free_of rfl _, calm_of (by decide +kernel), by decide +kernel, rfl, rfl, by decide +kernel⟩,
    ⟨base_focused, quiet_of (by decide +kernel), by decide +kernel, rfl, by decide +kernel, by intro j h; cases h⟩, ⟨rfl, rfl⟩,
    ⟨_, calm_of (by decide +kernel), ⟨rfl, by decide +kernel⟩, rfl, rfl⟩, ⟨_, ⟨rfl, by decide +kernel⟩, rfl⟩, ⟨rfl, rfl⟩,
    ⟨quiet_of (by decide +kernel), by unfold State.Canonical; decide +kernel, ⟨_, _, rfl, rfl, by unfold Place.Ordinary; decide +kernel, rfl, rfl, keyed_of (by decide +kernel), keyed_of (by decide +kernel),
      by decide +kernel, by decide +kernel⟩⟩, ⟨_, rfl⟩⟩

/-- A descriptor of a one-die collective of one 64-byte granule, at the address in w1. -/
def coll1 : State := { at1 with mem := Mem.writeN (Mem.writeN (Mem.writeN [] 0x1000 8 0x3000) 0x1008 8 0x4000) 0x1018 8 0x1000000010000 }

/-- A COLL of the thread, queued or with its input. -/
def collOp1 (input : Option (List Byte)) (w3 : Word) : CollOp :=
  { owner := 0, part := 0, ly := 0, lx := 0, user := true, order := 0, reg := 4, die := 0, src := 0x3000, dst := 0x4000, tag := 9, word3 := w3,
    mods := 0, input := input }

theorem peers_none {q : CollOp} (h : q.mods = 0) : q.peers = 0 := by simp [CollOp.peers, setBit, h]

/-- The broadcast whose root is die 4 of this one. -/
def collRoot : CollOp := collOp1 (some [0]) 0x1000400010005
/-- The thread waits for it. -/
def collWait : State := pending (co base fun c => { c with cq := [collRoot] }) ⟨wReg 4, 1, 0, 0, .collective 9, 0⟩

theorem collWait_lost : collWait.collLost collRoot.tag = none := by
  have h : collWait.participants collRoot.tag = [collRoot] := by decide +kernel
  simp [State.collLost, h, peers_none (show collRoot.mods = 0 from rfl), bit]

theorem collRoot_complete : collComplete [collRoot] = true := by decide +kernel

theorem collRoot_disagree : collDisagree [collRoot] = true := by
  have h : bit collRoot.dies (bits collRoot.word3 35 32) = false := by decide +kernel
  have g : collRoot.op = 5 := by decide +kernel
  simp [collDisagree, CollOp.rootIn, h, g]

/-- CollectivesAndBarriers: refused and accepted descriptors, a COLL that may leave, one whose participants disagree (a broadcast without its
root); barriers of count 0, 2 and 1; a span of quiescence. -/
theorem witness_CollectivesAndBarriers :
    (∃ ps, coll1.Free [2, 1] ∧ coll1.Calm ∧ coll1.Gives 64 1 (coll1.rd 1) ps ∧
      collRefused coll1 (cidDie coll1.th.cid) (pieceWords coll1 64 (ps.map (·.2))) = false) ∧
    (∃ ps, at1.Gives 64 1 (at1.rd 1) ps ∧ collRefused at1 (cidDie at1.th.cid) (pieceWords at1 64 (ps.map (·.2))) = true) ∧
    (let q := collOp1 none 0x1000000010000
     let s := co base fun c => { c with cq := [q] }
     s.cores = [] ∧ s.core.cq = [q] ∧ s.collMayLeave s.core q = true) ∧
    (collWait.cores = [] ∧ collWait.core.cq = [collRoot] ∧ collWait.Focused ∧ collWait.Quiet ∧ collRoot.owner = collWait.th.tid ∧
      collRoot.reg ≠ 0 ∧ collRoot.input.isSome = true ∧ collWait.collLost collRoot.tag = none ∧ collComplete [collRoot] = true ∧
      collDisagree [collRoot] = true) ∧
    (base.Calm ∧ base.part.num = base.th.part ∧ barCount (base.part.bar 0) = 0) ∧
    (let s := pa base fun p => { p with barcnt := p.barcnt.set 0 2 }
     s.Calm ∧ barArr (s.part.bar 0) + 1 < barCount (s.part.bar 0)) ∧
    (let s := pending (pa base fun p => { p with barcnt := p.barcnt.set 0 1 }) ⟨wReg 4, 1, 0, 0, .barrier 0 false, 0⟩
     s.Focused ∧ s.Quiet ∧ s.others = [] ∧ s.th.active = true ∧ barCount (s.part.bar 0) ≠ 0 ∧
       barCount (s.part.bar 0) ≤ barArr (s.part.bar 0) + 1) ∧
    (let s := pending { (pa base fun p => { p with quietSince := some 0 }) with cycle := 2048 } ⟨wReg 4, 1, 0, 0, .quiet, 0⟩
     s.Focused ∧ s.Quiet ∧ s.part.quietSince = some 0 ∧ 0 + 2048 ≤ s.cycle) :=
  ⟨⟨_, free_of rfl _, calm_of (by decide +kernel), ⟨rfl, by decide +kernel⟩, rfl⟩, ⟨_, ⟨rfl, by decide +kernel⟩, rfl⟩, by decide +kernel,
    ⟨rfl, rfl, ⟨rfl, rfl⟩, quiet_of (by decide +kernel), rfl, by decide +kernel, rfl, collWait_lost, collRoot_complete, collRoot_disagree⟩,
    ⟨base_calm, by decide +kernel⟩, ⟨calm_of (by decide +kernel), by decide +kernel⟩, ⟨⟨rfl, rfl⟩, quiet_of (by decide +kernel), by decide +kernel⟩,
    ⟨⟨rfl, rfl⟩, quiet_of (by decide +kernel), by decide +kernel⟩⟩

/-- An integer sum of two elements over dies 0 and 1: its COLL on core (0, 0), and on core `far1` of die 1. -/
def far1 : Cid := 0x10
def sumAt0 : CollOp := collOp1 (some (List.replicate 16 1)) 0x3000000020002
def sumAt1 : CollOp := { sumAt0 with owner := mkTid far1 3, die := 1, reg := 5, dst := 0x6000, input := some (List.replicate 16 2) }
def farCore : Core := { Core.initial far1 with owner := some 0, cq := [sumAt1] }
def farThread : Thread :=
  let t := { Thread.unpopulated (mkTid far1 3) with active := true }
  { t with pipe := { t.pipe with pend := [⟨wReg 5, 1, 2, 0, .collective 9, 0⟩] } }
def twoDies : State :=
  { pending (co base fun c => { c with cq := [sumAt0] }) ⟨wReg 4, 1, 2, 0, .collective 9, 0⟩ with cores := [farCore], others := [farThread] }

/-- CollectivesAndBarriers: an instance that two dies complete. -/
theorem witness_CollectivesAndBarriers_two :
    (twoDies.Focused ∧ twoDies.Quiet ∧ twoDies.Canonical ∧ twoDies.held = [] ∧ twoDies.waiters = [] ∧ twoDies.cores = [farCore] ∧
      twoDies.others = [farThread] ∧ farCore.cid ≠ twoDies.core.cid ∧ twoDies.core.cq = [sumAt0] ∧ farCore.cq = [sumAt1]) ∧
    (sumAt0.owner = twoDies.th.tid ∧ sumAt1.owner = farThread.tid ∧ tidCore sumAt0.owner = twoDies.core.cid ∧ tidCore sumAt1.owner = farCore.cid ∧
      sumAt0.owner ≠ sumAt1.owner ∧ sumAt0.reg ≠ 0 ∧ sumAt1.reg ≠ 0) ∧
    (twoDies.th.pipe.pend = [⟨wReg sumAt0.reg, 1, 2, 0, .collective sumAt0.tag, 0⟩] ∧
      farThread.pipe.pend = [⟨wReg sumAt1.reg, 1, 2, 0, .collective sumAt1.tag, 0⟩]) ∧
    (sumAt0.tag = sumAt1.tag ∧ sumAt0.word3 = sumAt1.word3 ∧ sumAt0.peers = 0 ∧ sumAt1.peers = 0 ∧ sumAt0.die.toNat < sumAt1.die.toNat ∧
      (∀ b, b < 16 → sumAt0.dies.getLsbD b = (b == sumAt0.die.toNat || b == sumAt1.die.toNat)) ∧ sumAt0.input = some (List.replicate 16 1) ∧
      sumAt1.input = some (List.replicate 16 2) ∧ sumAt0.op < 7 ∧ sumAt0.op ≠ 5 ∧ 0 < sumAt0.count ∧ sumAt0.len ≤ 64) ∧
    ∃ dq dp, resolve twoDies sumAt0.agent .engineWrite 64 sumAt0.dst = .ok dq ∧ resolve twoDies sumAt1.agent .engineWrite 64 sumAt1.dst = .ok dp ∧
      dq.Ordinary (twoDies.partOf sumAt0.part) 8 ∧ dp.Ordinary (twoDies.partOf sumAt1.part) 8 ∧ twoDies.Keyed dq sumAt0.len ∧
      twoDies.Keyed dp sumAt0.len ∧ dq.key + 64 ≤ dp.key := by
  refine ⟨⟨⟨rfl, rfl⟩, ?_, by unfold State.Canonical; decide, by decide +kernel⟩, by decide +kernel, by decide +kernel,
    ⟨rfl, rfl, peers_none rfl, peers_none rfl, by decide +kernel⟩, _, _, rfl, rfl, by unfold Place.Ordinary; decide +kernel,
    by unfold Place.Ordinary; decide +kernel, keyed_of (by decide +kernel), keyed_of (by decide +kernel), by decide +kernel⟩
  intro c
  by_cases h : (0 : Cid) = c
  · subst h; decide +kernel
  · by_cases g : far1 = c
    · subst g; decide +kernel
    · have e : ¬0#13 = c := h
      simp [State.coreOf, twoDies, pending, th, co, show base.core.cid = 0 from rfl, farCore, Core.initial, e, g]

/-- A table of one bucket in SBM, its descriptor at the address in w1, the key of all zeros at the address in w2. -/
def table1 : State :=
  let s := put (pa at1 fun p => { p with sbmwin := 0x100000FFF0000 }) 2 (ownAddr 0x2000)
  { s with mem := Mem.writeN (Mem.writeN [] 0x1000 8 0x4000000000010000) 0x1008 8 0x4000000000020000 }
/-- That table. -/
def tb1 : PrefixTable := ⟨0x4000000000010000, 0x4000000000020000, 0⟩
/-- The key. -/
def key1 : List Word := List.replicate 16 0
/-- The table with way 0 valid, its pin count and its claim as given. -/
def way0 (pin : Nat) (claimed : Nat) : State :=
  { table1 with mem := table1.mem.writeN (sbmAt (tb1.entry 0)) 8 (2 ^ 63 + claimed * 2 ^ 62 + pin * 2 ^ 16) }

/-- A test for the table, and for the key. -/
def tableB (s : State) : Bool :=
  match placesFrom s .unitRead 32 1 (s.rd 1) with
  | .ok ps => (ps.all fun p => s.poisonIn p.2.key 32 = none) && tableOf (pieceWords s 32 (ps.map (·.2))) = some tb1 &&
      tb1.outside s.part = none
  | .error _ => false
def keyB (s : State) : Bool :=
  match placesFrom s .unitRead 64 2 (s.rd 2) with
  | .ok ps => keyError s ps = none && key1 = pieceWords s 64 (ps.map (·.2))
  | .error _ => false

theorem table_of {s : State} (h : tableB s = true) : s.HasTable (s.rd 1) tb1 := by
  unfold tableB at h
  split at h
  · next ps e => simp at h; exact ⟨ps, ⟨e, fun p hp => h.1.1 _ _ hp⟩, h.1.2, h.2⟩
  · cases h

theorem key_of {s : State} (h : keyB s = true) : s.HasKey (s.rd 2) key1 := by
  unfold keyB at h
  split at h
  · next ps e => simp at h; exact ⟨ps, e, h.1, h.2⟩
  · cases h

/-- The sixty-four nodes, of which each but node 0 has the one below it as its parent. -/
def chain64 : State := { put at1 2 63 with mem := (List.range 64).foldl (fun m i => Mem.writeN m (0x1000 + i) 1 (if i = 0 then 0xFF else i - 1)) [] }
def path64 : List Nat := (List.range 64).reverse

/-- PrefixReads, paths of ANCM: the longest; one that comes to a node of its own; one that leaves the table. -/
theorem witness_PrefixReads_paths :
    (chain64.Calm ∧ (chain64.rd 2).toNat = 63 ∧ path64.head? = some 63 ∧ path64.Nodup ∧ (∀ x ∈ path64, x < 64) ∧
      (∀ i, i < 63 → path64.getD (i + 1) 0 = (chain64.mem.read (0x1000 + path64.getD i 0)).toNat) ∧
      (chain64.mem.read (0x1000 + path64.getD 63 0)).toNat = 0xFF) ∧
    (let m := Mem.writeN [] 0x1000 8 0x4000010201
     [(0 : Nat), 1, 2].Nodup ∧ (m.read 0x1000).toNat = 1 ∧ (m.read 0x1001).toNat = 2 ∧ (m.read 0x1002).toNat = 1 ∧ 1 ∈ [(0 : Nat), 1, 2] ∧
       (m.read 0x1004).toNat = 64) ∧
    64 ≤ (64 : Word).toNat :=
  ⟨⟨calm_of (by decide +kernel), by decide +kernel⟩, by decide +kernel⟩

/-- PrefixReads: tokens, a parent table with a root, a missing parent, a self loop and a chain; a bucket without a match and with one. -/
theorem witness_PrefixReads :
    (at1.Free [2, 3, 1] ∧ at1.Calm ∧ ∃ ps, at1.Gives 4 16 (at1.rd 1) ps) ∧
    (at1.Gives 64 1 (at1.rd 1) [(at1.rd 1, pl1)] ∧ pl1.Ordinary at1.part 8 ∧ at1.Keyed pl1 64 ∧ (at1.rd 2).toNat < 64 ∧
      (at1.mem.read (pl1.key + 0)).toNat = 0) ∧
    (let m := Mem.writeN [] 0x1000 8 0x40FF02FF
     (m.read 0x1000).toNat = 0xFF ∧ (m.read 0x1001).toNat < 64 ∧ (m.read 0x1002).toNat = 0xFF ∧ (m.read 0x1003).toNat = 64) ∧
    (table1.Calm ∧ table1.HasTable (table1.rd 1) tb1 ∧ table1.HasKey (table1.rd 2) key1 ∧
      (∀ w, w < 4 → sbmError table1 (tb1.entry w) 64 = none ∧ sbmError table1 (tb1.entry w + 64) 64 = none) ∧
      swValid (tb1.word table1 0 0) = false) ∧
    (let s := way0 0 1
     s.HasTable (s.rd 1) tb1 ∧ s.HasKey (s.rd 2) key1 ∧ swValid (tb1.word s 0 0) = true ∧ tb1.tagged s key1 0 = true) :=
  ⟨⟨free_of rfl _, at1_calm, ⟨_, ⟨rfl, by decide +kernel⟩⟩⟩, ⟨⟨rfl, by decide +kernel⟩, by unfold Place.Ordinary; decide +kernel, keyed_of (by decide +kernel), by decide +kernel⟩, by decide +kernel,
    ⟨calm_of (by decide +kernel), table_of (by decide +kernel), key_of (by decide +kernel), by decide +kernel, by decide +kernel⟩,
    table_of (by decide +kernel), key_of (by decide +kernel), by decide +kernel⟩

/-- PrefixUpdates: a thread that holds a word, one in a frame; a bucket with a match, without a candidate, with one; pins at the ends of the count. -/
theorem witness_PrefixUpdates :
    (th base fun t => { t with holding := some 0 }).th.holding ≠ none ∧
    (base.Calm ∧ base.th.holding = none ∧ (bitSet base tSPEC).th.st tSPEC = true) ∧
    (∃ kpl, table1.Free [3, 1, 2, 4] ∧ table1.Calm ∧ table1.Canonical ∧ table1.th.holding = none ∧ table1.th.st tSPEC = false ∧
      table1.th.st tBOOST = false ∧ table1.th.speculates = false ∧ table1.HasTable (table1.rd 1) tb1 ∧ table1.HasKey (table1.rd 2) key1 ∧
      resolve table1 table1.th.agent .store 8 (table1.rd 2) = .ok kpl ∧ kpl.special = .none ∧ table1.Keyed kpl 8 ∧ table1.held = [] ∧ table1.waiters = [] ∧
      tb1.bucketError table1 0 = none ∧ tb1.candidates table1 0 = [0, 1, 2, 3]) ∧
    (let s := way0 65534 0
     s.HasTable (s.rd 1) tb1 ∧ s.HasKey (s.rd 2) key1 ∧ swValid (tb1.word s 0 0) = true ∧ tb1.tagged s key1 0 = true ∧
       swClaimed (tb1.word s 0 0) = false ∧ swPin (tb1.word s 0 0) < 65535 ∧ swPin (tb1.word s 0 0) ≠ 0 ∧
       s.unheld (sbmAt (tb1.entry 0)) = true ∧ sbmError s (tb1.entry 0) 128 = none ∧ sbmError s (tb1.header 0) 8 = none) ∧
    (let v (m : Mem) (i : Nat) : Mem := (m.writeN (sbmAt (tb1.entry i)) 8 (2 ^ 63 + 2 ^ 16)).writeN (sbmAt (tb1.entry i) + 8) 8 1
     let s := { table1 with mem := v (v (v (v table1.mem 0) 1) 2) 3 }
     tb1.candidates s 0 = [] ∧ ∀ w, w < 4 → tb1.tagged s key1 w = false) ∧
    ((∀ h ∈ table1.held, h.holder ≠ .turn table1.th.tid) ∧
      ∀ h ∈ ({ table1 with held := [⟨0x7000, .turn 9, 0, false, []⟩] } : State).held, h.holder ≠ .turn table1.th.tid) ∧
    (4 * 2 ^ tb1.logb ≤ 4 ∧ 3 < 4 * 2 ^ tb1.logb) :=
  ⟨by decide +kernel, ⟨base_calm, by decide +kernel⟩,
    ⟨_, free_of rfl _, calm_of (by decide +kernel), by unfold State.Canonical; decide +kernel, rfl, by decide +kernel, by decide +kernel, by decide +kernel,
      table_of (by decide +kernel), key_of (by decide +kernel), rfl, rfl, keyed_of (by decide +kernel), by decide +kernel⟩,
    ⟨table_of (by decide +kernel), key_of (by decide +kernel), by decide +kernel⟩,
    by decide +kernel, by decide +kernel, by decide +kernel⟩

/-- A descriptor of rows of 64 bytes and one page at 0x6000, its chain at 0x3000, at the address in w1 in local-absolute form. -/
def kv1 : State :=
  let s := put (put base 1 0x1000) 2 0x5000
  { s with mem := ((Mem.writeN (Mem.writeN [] 0x1008 8 0x3000) 0x1010 8 0x100000040).writeN 0x3000 8 0x6000) }

/-- CacheAppend: a refused descriptor, a position other than LEN, and a row at LEN. -/
theorem witness_CacheAppend :
    (let s := put base 1 0x1000
     ∃ ps, s.Free [4, 1, 2, 3] ∧ s.Calm ∧ s.Canonical ∧ s.th.holding = none ∧ s.th.speculates = false ∧ s.Gives 32 1 (s.rd 1) ps ∧
       s.held = [] ∧ kvRefused (pieceWords s 32 (ps.map (·.2))) = true) ∧
    (∃ ps rp hp cpl tp, kv1.Free [4, 1, 2, 3] ∧ kv1.Calm ∧ kv1.Canonical ∧ kv1.th.holding = none ∧ kv1.th.speculates = false ∧
      kv1.Gives 32 1 (kv1.rd 1) ps ∧ kv1.held = [] ∧
      kvRefused (pieceWords kv1 32 (ps.map (·.2))) = false ∧
      placesFrom kv1 .unitRead 64 (kvRow (pieceWords kv1 32 (ps.map (·.2))) / 64) (kv1.rd 2) = .ok [(kv1.rd 2, rp)] ∧
      resolve kv1 kv1.th.agent .feBoth 8 (kv1.rd 1) = .ok hp ∧ addrSpace (kv1.rd 1) ≠ 3 ∧
      kvLen (pieceWords kv1 32 (ps.map (·.2))) = 0 ∧ kvRow (pieceWords kv1 32 (ps.map (·.2))) = 64 ∧
      0 / 16 < kvPages (pieceWords kv1 32 (ps.map (·.2))) ∧ rp.Ordinary kv1.part 8 ∧ dataError kv1 rp (kv1.rd 2) 64 = none ∧
      resolve kv1 kv1.th.agent .unitRead 8 0x3000 = .ok cpl ∧ dataError kv1 cpl 0x3000 8 = none ∧ cpl.Ordinary kv1.part 1 ∧
      kv1.mem.word cpl.key ≠ BitVec.allOnes 64 ∧ rangeCause kv1 true 64 0x6000 = none ∧
      resolve kv1 kv1.th.agent .engineWrite 64 0x6000 = .ok tp ∧ kv1.Keyed hp 8 ∧ kv1.Keyed rp 64 ∧ kv1.Keyed cpl 8 ∧ kv1.Keyed tp 64) ∧
    (1 : Word).toNat % 2 ^ 32 ≠ 0 :=
  ⟨⟨_, free_of rfl _, calm_of (by decide +kernel), by unfold State.Canonical; decide +kernel, rfl, by decide +kernel, ⟨rfl, by decide +kernel⟩, rfl, rfl⟩,
    ⟨_, _, _, _, _, free_of rfl _, calm_of (by decide +kernel), by unfold State.Canonical; decide +kernel, rfl, by decide +kernel, ⟨rfl, by decide +kernel⟩, rfl, rfl,
      rfl, rfl, by decide +kernel, rfl, rfl, by decide +kernel, by unfold Place.Ordinary; decide +kernel, rfl, rfl, rfl, by unfold Place.Ordinary; decide +kernel, by decide +kernel,
      rfl, rfl, keyed_of (by decide +kernel), keyed_of (by decide +kernel), keyed_of (by decide +kernel), keyed_of (by decide +kernel)⟩, by decide +kernel⟩

/-- A trie at the address in w1 whose root, node 1, has the edge of byte 0x61 to node 3, which has none and no token. -/
def trie1 : State :=
  put { at1 with mem := ((Mem.writeN [] 0x1000 8 1).writeN 0x1008 8 1).writeN 0x1010 8 (0x61 * 2 ^ 42 + 3) } 4 0x61

/-- TextGroup: the empty state with bytes of each class, a second byte, and the symbols of a trie. -/
theorem witness_TextGroup :
    (at1.Free [2, 3, 4, 1] ∧ (2 : Reg) ≠ 3 ∧ (3 : Reg) ≠ 0 ∧ at1.Calm) ∧
    ((at1.rd 4).getLsbD 8 = false ∧ at1.rd 3 = 0 ∧ 0xC2 ≤ 0xDF ∧ 0x80 ≤ 0xC1 ∧ 0xF5 ≤ 0xFF) ∧
    (let s := put (put base 3 (BitVec.ofNat 64 (0xC2 * 256 + 5))) 4 0xBF
     s.rd 3 = BitVec.ofNat 64 (0xC2 * 256 + 5) ∧ 0x80 ≤ (s.rd 4).toNat % 256 ∧ (s.rd 4).toNat % 256 ≤ 0xBF) ∧
    ((put base 4 0x8000000000000000).Calm ∧ ((put base 4 0x8000000000000000).rd 4).getLsbD 63 = true) ∧
    (at1.Reaches .read 8 (at1.rd 1) pl1 ∧ ∃ np, at1.Reaches .read 8 (trieAt (at1.rd 1) (bits (at1.mem.word pl1.key) 23 0)) np ∧
      bits (at1.mem.word np.key) 15 0 = 0) ∧
    (trie1.Calm ∧ (trie1.rd 4).getLsbD 63 = false ∧ (trie1.rd 4).getLsbD 60 = false ∧ bits (trie1.rd 3) 15 8 = 0 ∧
      trie1.Reaches .read 8 (trie1.rd 1) pl1 ∧ bits (trie1.mem.word pl1.key) 23 0 = 1 ∧
      ∃ np ep kp, trie1.Reaches .read 8 (trieAt (trie1.rd 1) 1) np ∧ bits (trie1.mem.word np.key) 15 0 = 1 ∧
        trie1.Reaches .read 8 (trieAt (trie1.rd 1) 2) ep ∧
        bits (trie1.mem.word ep.key) 63 42 = (if (trie1.rd 4).getLsbD 62 then 2 ^ 21 else 0) + bits (trie1.rd 4) 20 0 ∧
        bits (trie1.mem.word ep.key) 23 0 = 3 ∧ trie1.Reaches .read 8 (trieAt (trie1.rd 1) 3) kp ∧
        bits (trie1.mem.word kp.key) 63 32 ≠ 2 ^ 32 - 1) := by
  refine ⟨⟨free_of rfl _, by decide +kernel, by decide +kernel, at1_calm⟩, by decide +kernel, by decide +kernel,
    ⟨calm_of (by decide +kernel), by decide +kernel⟩,
    ⟨reaches_of rfl rfl rfl rfl, ⟨_, reaches_of rfl rfl rfl (by decide +kernel), rfl⟩⟩, calm_of (by decide +kernel), by decide +kernel, by decide +kernel, by decide +kernel,
    reaches_of rfl rfl rfl rfl, by decide +kernel, ⟨_, _, _, reaches_of rfl rfl rfl (by decide +kernel), by decide +kernel,
      reaches_of rfl rfl rfl (by decide +kernel), by decide +kernel, by decide +kernel, reaches_of rfl rfl rfl (by decide +kernel), by decide +kernel⟩⟩

theorem takes_of {s : State} {q : BitVec 12} {priv : Bool} {p : Option (BitVec 6)}
    (h : (s.started && (s.queueOf q).busy.isNone && !s.commandBad q priv p false) = true) : s.Takes q priv p := by
  simp only [Bool.and_eq_true, Bool.not_eq_true', Option.isNone_iff_eq_none] at h
  exact ⟨h.1.1, h.1.2, h.2⟩

/-- A good record of one identifier at offset 0x1000 of core (0, 0). -/
def launchS : State := { base with mem := Mem.writeN [] 0x1018 8 1 }
/-- A copy of the front end with two granules left. -/
def copyS : State := { base with copies := [⟨0, 0, 0, ownAddr 0x3000, ownAddr 0x1000, 128⟩] }

/-- HostCommands: a record, a copy, a granule of a copy, a signal's word, a full word and an empty one. -/
theorem witness_HostCommands :
    base.Takes 0 false none ∧
    (∃ pl, launchS.Takes 0 false none ∧ resolve launchS (launchS.partAgent 0) .unitRead 128 0x1000 = .ok pl ∧
      dataError launchS pl 0x1000 128 = none ∧ recordStatus (launchS.partOf 0) (unitWords launchS (launchS.partOf 0) pl 16) = 0) ∧
    (base.copies = [] ∧ base.copyBad 0 0x3000 0x1000 64 = false ∧ (64 : Word) ≠ 0) ∧
    (∃ sp dp, copyS.Takes 0 false none ∧ 64 < (128 : Word).toNat ∧ copyS.Quiet ∧ copyS.Canonical ∧
      resolve copyS (copyS.partAgent 0) .engineRead 64 0x1000 = .ok sp ∧ dataError copyS sp 0x1000 64 = none ∧
      sp.Ordinary (copyS.partOf 0) 8 ∧ resolve copyS (copyS.partAgent 0) .engineWrite 64 0x3000 = .ok dp ∧
      copyS.heldByOther none dp.key 64 = none ∧ copyS.Keyed sp 64 ∧ copyS.Keyed dp 64) ∧
    (∃ pl, resolve base (base.partAgent 0) .stf 8 0x1000 = .ok pl ∧ pl.special = .none ∧ base.waiters = [] ∧ base.held = [] ∧ base.Quiet ∧
      base.Canonical ∧ base.Keyed pl 8) ∧
    (∃ pl, resolve base (base.partAgent 0) .feRead 8 0x1000 = .ok pl ∧ base.isFull pl.key = true ∧ base.heldByOther none pl.key 8 = none ∧
      ({ base with empties := [pl.key] } : State).isFull pl.key = false) :=
  ⟨takes_of (by decide +kernel), ⟨_, takes_of (by decide +kernel), rfl, rfl, rfl⟩, by decide +kernel,
    ⟨_, _, takes_of (by decide +kernel), by decide +kernel, quiet_of (by decide +kernel), by unfold State.Canonical; decide +kernel, rfl, rfl,
      by unfold Place.Ordinary; decide +kernel, rfl, rfl, keyed_of (by decide +kernel), keyed_of (by decide +kernel)⟩,
    ⟨_, rfl, rfl, rfl, rfl, quiet_of (by decide +kernel), base_canonical, keyed_of (by decide +kernel)⟩, ⟨_, rfl, by decide +kernel, rfl, by decide +kernel⟩⟩

/-- Queue 0 of one record at bus address 0, enabled, with a record announced. -/
def queue0 : CmdQueue := { CmdQueue.initial 0 with word1 := 0x8000000000000000, prod := 1 }
def queueS (x : CmdQueue) : State := { base with queues := [x] }

/-- CommandQueues: a stopped queue, announcements of one and of two records, a STALE queue, a right and a wrong SEQ, and a last re-fetch. -/
theorem witness_CommandQueues :
    ((base.queueOf 0).en = false ∧ (0x8000000000000000 : Word).getLsbD 63 = true) ∧
    (let x := (queueS queue0).queueOf 0
     x.en = true ∧ ((1 : Half) - x.cons).toNat ≤ x.size ∧ x.size < ((2 : Half) - x.cons).toNat) ∧
    ((queueS { queue0 with word1 := 0x9000000000000000 }).queueOf 0).stale = true ∧
    (let s : State := { queueS queue0 with mem := (Mem.writeN [] (hostKey 0) 8 4).writeN (hostKey 56) 8 1 }
     let x := s.queueOf 0
     s.mayFetch x = true ∧ x.refetch = 0 ∧ x.seqOk (s.commandRecord x) = true ∧
       s.commandOf 0 (s.commandRecord x) = some (.waitCommand 0 0 0)) ∧
    ((queueS queue0).mayFetch queue0 = true ∧ queue0.refetch = 0 ∧ queue0.seqOk ((queueS queue0).commandRecord queue0) = false) ∧
    (let x := { queue0 with refetch := 16 }
     let s : State := { queueS x with cycle := 2000 }
     s.mayFetch x = true ∧ x.refetchAt + 2000 ≤ s.cycle ∧ x.seqOk (s.commandRecord x) = false ∧ 15 < 16 ∧ 16 ≤ x.refetch) := by
  decide +kernel

/-- Queue 0 may issue privileged commands, and die 0 has the lease. -/
def privS (s : State) : State :=
  { s with queues := [{ CmdQueue.initial 0 with word1 := 0x2000000000000000 }], modl := { s.modl with fwlease := 0x100 } }
/-- A partition descriptor at bus address 0 with word 0. -/
def descS (w : Nat) : State := { privS base with mem := Mem.writeN [] (hostKey 0) 8 w }

/-- PartitionCommands: a 2 x 2 partition beside the first one, a resize to the same size, limits, and a teardown. -/
theorem witness_PartitionCommands :
    (let s := descS 0x1010002
     let ws := s.hostWords 0
     s.Takes 0 true none ∧ s.leaseOver = false ∧ createBad ws = false ∧ s.freeNumber = some 1 ∧ s.onGrid (s.newPartition 1 ws) = true ∧
       s.allFree ((s.newPartition 1 ws).logical.map fun yx => ((s.newPartition 1 ws).target yx.1 yx.2).cid) = true) ∧
    (let s := descS 0x101010000
     let ws := s.hostWords 0
     s.Takes 0 true (some 0) ∧ s.leaseOver = false ∧ (s.partOf 0).live = true ∧ descBad 1 ws = false ∧ evenSize (descHM1 ws) (descWM1 ws) = true ∧
       ∃ u, s.resized (s.partOf 0) (descHM1 ws) (descWM1 ws) = some u) ∧
    (let s := descS 0x200000000
     s.Takes 0 true (some 0) ∧ s.leaseOver = false ∧ (s.partOf 0).live = true ∧ descBad 2 (s.hostWords 0) = false) ∧
    (let s := privS base
     s.started = true ∧ (s.queueOf 0).busy = none ∧ s.commandBad 0 true (some 0) true = false ∧ (s.partOf 0).live = true ∧
       s.launches = [] ∧ s.axes = [] ∧ s.held = [] ∧
       ∀ y ∈ s.queues, y.part = 0 → ∀ n d r, y.busy ≠ some (.launchCommand n d r)) :=
  ⟨⟨takes_of (by decide +kernel), by decide +kernel⟩,
    ⟨takes_of (by decide +kernel), by decide +kernel, by decide +kernel, by decide +kernel, by decide +kernel, Option.isSome_iff_exists.mp (by decide +kernel)⟩,
    ⟨takes_of (by decide +kernel), by decide +kernel⟩, by decide +kernel, rfl, by decide +kernel, rfl, rfl, rfl, rfl, by
      intro y hy _ n d r h
      cases List.mem_singleton.mp hy
      cases h⟩

/-- Where the host asks that a partition be saved, and core (0, 0) with the translations of the gibibytes of the cores' and of the partition's block. -/
def areaA : Word := 0x8000000000000000
def areaC (c : Core) : Core := { c with tlb := [⟨0, 0, 0x1F, 2⟩, ⟨0, 0x400000, 0x1F, 2⟩] }
def areaS : State := co (privS base) areaC
/-- No thread is active. -/
def emptyS : State := th areaS fun t => { t with active := false }
/-- The partition is vacated. -/
def vacatedS : State :=
  let c (n : Cid) : Core := { Core.initial n with shadowHolds := some 0 }
  let m (y : BitVec 7) (x : BitVec 6) : BitVec 13 × MapTarget := (y ++ x, .shadow (mkCid y x))
  { emptyS with core := areaC (c 0), cores := [c (mkCid 0 1), c (mkCid 1 0), c (mkCid 1 1)]
                part := { base.part with map := [m 0 0, m 0 1, m 1 0, m 1 1] } }
/-- The partition is switched out, with its first core saved. -/
def outS : State := pa (co emptyS fun c => { c with owner := none, shadowHolds := some 0 }) fun p => { p with
  state := 2, save := { p.save with outCores := [Core.initial 0] } }

/-- The front end's agent for a command of queue 0. -/
def agentOf (s : State) : Agent := s.partAgent (s.queueOf 0).part

/-- The four cores of a 2 x 2 partition at the origin. -/
def quad0 : List (BitVec 7 × BitVec 6 × Cid) := [(0, 0, 0), (0, 1, 1), (1, 0, 64), (1, 1, 65)]

/-- Preemption: the whole partition vacated, with and without notice, returned, switched out and switched in. -/
theorem witness_Preemption :
    (∃ cs, emptyS.Takes 0 true (some 0) ∧ emptyS.leaseOver = false ∧ (emptyS.partOf 0).live = true ∧ (emptyS.partOf 0).state ≠ 2 ∧
      rectBad (emptyS.partOf 0) 0x1010000 = false ∧ emptyS.runningCores (emptyS.partOf 0) (rectCores 0x1010000) = some cs ∧
      emptyS.saveFaults (agentOf emptyS) .engineWrite areaA (rectCores 0x1010000) = false ∧
      (emptyS.stopCores (cs.map (·.2.2))).drained (cs.map (·.2.2)) = true ∧ ∀ c ∈ cs, emptyS.coreThreads c.2.2 = []) ∧
    (∃ cs, areaS.Takes 0 true (some 0) ∧ areaS.leaseOver = false ∧ areaS.runningCores (areaS.partOf 0) (rectCores 0x1010000) = some cs ∧
      areaS.saveFaults (agentOf areaS) .engineWrite areaA (rectCores 0x1010000) = false ∧
      areaS.Quiet ∧ areaS.th.active = true ∧ areaS.th.part = 0 ∧ areaS.th.cid ∈ cs.map (·.2.2)) ∧
    (∃ cs, vacatedS.Takes 0 true (some 0) ∧ vacatedS.leaseOver = false ∧ vacatedS.vacatedCores (vacatedS.partOf 0) (rectCores 0x1010000) = some cs ∧
      vacatedS.allFree (cs.map (·.2.2)) = true ∧ vacatedS.saveFaults (agentOf vacatedS) .engineRead areaA (rectCores 0x1010000) = false ∧ vacatedS.firstRestoreError (fun c => shadowKey c 0) (cs.map (·.2.2)) = none ∧
      (vacatedS.partOf 0).save.threads = [] ∧ (∀ y ∈ vacatedS.threads, y.pipe.park ≠ some .displaced)) ∧
    (areaS.switchFaults (agentOf areaS) .engineWrite areaA (areaS.partOf 0) ((areaS.coresOf 0).map areaS.coreOf) = false ∧
      (let u := areaS.gangStop 0
       u.drained (u.coresOf 0) = true)) ∧
    (let x := outS.partOf 0
     outS.Takes 0 true (some 0) ∧ outS.leaseOver = false ∧ x.live = true ∧ x.state = 2 ∧
       (∀ c ∈ x.save.outCores.map (·.cid), (outS.coreOf c).owner = none ∧
         ((outS.coreOf c).shadowHolds = none ∨ (outS.coreOf c).shadowHolds = some 0)) ∧
       outS.switchFaults (agentOf outS) .engineRead areaA x x.save.outCores = false ∧
       outS.firstRestoreError (fun c => shadowKey c 0)
         ((x.save.outCores.map (·.cid)).filter fun c => (outS.coreOf c).shadowHolds == some 0 && !x.onSlice c) = none) :=
  ⟨⟨quad0, takes_of (by decide +kernel), by decide +kernel, by decide +kernel, by decide +kernel, by decide +kernel, by decide +kernel, by decide +kernel,
      by decide +kernel, every_of (by decide +kernel)⟩,
    ⟨quad0, takes_of (by decide +kernel), by decide +kernel, by decide +kernel, by decide +kernel, quiet_of (by decide +kernel), by decide +kernel⟩,
    ⟨quad0, takes_of (by decide +kernel), by decide +kernel, by decide +kernel, by decide +kernel, by decide +kernel, by decide +kernel, rfl,
      every_of (by decide +kernel)⟩, by decide +kernel,
    ⟨takes_of (by decide +kernel), by decide +kernel, by decide +kernel, by decide +kernel, every_of (by decide +kernel), by decide +kernel, by decide +kernel⟩⟩

theorem area_apart (k : Nat) (h : k < 8193 * saveStride) : addrSpace (areaA + BitVec.ofNat 64 k) ≠ 3 := by
  have e : 8193 * saveStride = 17718902784 := by decide
  have a : areaA = 0x8000000000000000#64 := rfl
  rw [a, addrSpace]
  simp only [bits, BitVec.toNat_add, BitVec.toNat_ofNat]
  omega

/-- Preemption, the memory: a save area outside the local memories, cores that are each named once, and the slice of a switched-out core. -/
theorem witness_Preemption_memory :
    (emptyS.Quiet ∧ emptyS.Canonical ∧ ∀ k, k < 8193 * saveStride → addrSpace (areaA + BitVec.ofNat 64 k) ≠ 3) ∧
    ((quad0.map (·.2.2)).Nodup ∧ (areaS.coresOf 0).Nodup ∧ (0 : Cid) ∈ areaS.coresOf 0 ∧ (areaS.coreOf 0).shadowHolds = none ∧
      (areaS.partOf 0).onSlice 0 = false) ∧
    (let x := outS.partOf 0
     x.save.outThreads = [] ∧ (x.save.outCores.map (·.cid)).Nodup ∧ (0 : Cid) ∈ x.save.outCores.map (·.cid) ∧
       (outS.coreOf 0).shadowHolds = some 0 ∧ x.onSlice 0 = false) :=
  ⟨⟨quiet_of (by decide +kernel), by unfold State.Canonical; decide, area_apart⟩, by decide +kernel, by decide +kernel⟩

/-- HostRegisters: the thread's handle; a closed and an open axis; axes 63 and 64; offsets at the ends of the blocks; the last bytes below the
doorbell window. -/
theorem witness_HostRegisters :
    (base.Focused ∧ base.Quiet ∧ base.byHandle 0 base.th.handle = some base.th) ∧
    (base.descriptorOpen (base.axisOf 63) = false ∧ base.descriptorOpen (base.axisOf 64) = true ∧ (63 : BitVec 14).toNat < 64 ∧
      64 ≤ (64 : BitVec 14).toNat) ∧
    ((0x41 : Nat) % 8 ≠ 0 ∧ 0x01FFF8 < 0x020000 ∧ 0x01FFF8 ≠ 0x10 ∧ 0x201000 ≤ 0x201000) ∧
    (base.bar2Open 0x1FFFFFFBFF8 (2 ^ (3 : BitVec 2).toNat) = true ∧ base.Keyed (hbmPlace 0x1FFFFFFBFF8) (2 ^ (3 : BitVec 2).toNat) ∧
      base.heldByOther none (hbmKey 0x1FFFFFFBFF8) (2 ^ (3 : BitVec 2).toNat) = none ∧
      base.poisonIn (hbmKey 0x1FFFFFFBFF8) (2 ^ (3 : BitVec 2).toNat) = none) :=
  ⟨⟨base_focused, quiet_of (by decide +kernel), by decide +kernel⟩, by decide +kernel, by decide +kernel, by decide +kernel, keyed_hbm (by decide +kernel),
    by decide +kernel⟩

/-- A launch of the record of `launchS` with the next identifier `n`. -/
def launch1 (n : Word) : Launch :=
  { id := 0, part := 0, record := [0, 0x2000, 0, 1, 0, 0, 0, 0, 0x1000], arrival := 0, lastPop := 0, aged := false, placed := some (0, 0, 1, 1),
    opening := none, next := n, closing := false, caller := none }

/-- Dispatching: a launch that is served next, one that has been waiting, one that is done, and a refill. -/
theorem witness_Dispatching :
    (let s : State := { base with launches := [launch1 0] }
     ∃ x, (s.endOpenings 0).nextLaunch 0 = some x ∧ s.offers (s.partOf x.1.part) x.2.1 x.2.2 = some 0 ∧ s.freeSlot 0 = some (mkTid 0 1)) ∧
    ((launch1 0).aged = false ∧ (launch1 0).next.toNat < (recWord (launch1 0).record 3).toNat ∧ (launch1 0).lastPop + 2000000 ≤ 2000000) ∧
    (let s : State := { base with launches := [launch1 1] }
     s.launchDone (launch1 1) = true ∧ s.waiters = [] ∧ s.held = [] ∧ s.Quiet ∧ s.Canonical ∧
       ∃ pl, resolve s (s.partAgent 0) .stf 8 (recWord (launch1 1).record 8) = .ok pl ∧ pl.special = .none ∧ s.Keyed pl 8) ∧
    (let s : State := { base with cycle := 1024 }
     s.Focused ∧ s.th.active = true ∧ s.refillDue s.core.cid = true) :=
  ⟨⟨_, rfl, by decide +kernel, by decide +kernel⟩, by decide +kernel,
    ⟨by decide +kernel, rfl, rfl, quiet_of (by decide +kernel), by unfold State.Canonical; decide +kernel, ⟨_, rfl, rfl, keyed_of (by decide +kernel)⟩⟩,
    ⟨⟨rfl, rfl⟩, by decide +kernel⟩⟩

/-- A store that a full list refused. -/
def refused1 : State := { base with waiters := [⟨some 0, pl1, 8, 0, .store 0 3, 5, 0, none, some 0, 0⟩] }
/-- A word held since cycle 0. -/
def held1 : HeldWord := ⟨0x1000, .thread 0, 0, false, []⟩
/-- A watchdog of one cycle. -/
def dogS (once : Bool) : State := { pa base (fun p => { p with wdLimit := 1, wdOnce := once }) with cycle := 2 }

/-- SlotEventsAndTimeouts: a slot that is next, a result in hand, a park, a refused store; a long hold, a cause, both expiries, a full stack. -/
theorem witness_SlotEventsAndTimeouts :
    (base.Focused ∧ base.th.pipe.yieldUntil ≤ base.cycle ∧ base.nextSlot base.core.cid = some base.th.tid) ∧
    ((pending base ⟨wReg 4, 1, 0, 0, .value 9, 0⟩).th.pipe.pend = [⟨wReg 4, 1, 0, 0, .value 9, 0⟩] ∧ (4 : Reg) ≠ 0) ∧
    (let s := th base fun t => { t with pipe := { t.pipe with park := some .issue } }
     s.th.active = true ∧ s.th.pipe.park = some .issue) ∧
    (refused1.Focused ∧ refused1.waiters.map (·.retryAt) = [some 0] ∧ refused1.waiters.map (·.record) = [none] ∧ 0 ≤ refused1.cycle ∧
      refused1.held = [] ∧ refused1.Quiet ∧ refused1.Canonical ∧ refused1.waiters.map (·.pl) = [pl1] ∧ pl1.special = .none ∧
      refused1.Keyed pl1 8) ∧
    (let s : State := { base with held := [held1], cycle := 65536 }
     s.held = [held1] ∧ held1.holder = .thread s.th.tid ∧ held1.timedOut = false ∧ held1.since + 65536 ≤ s.cycle) ∧
    (let s := th base fun t => { t with pipe := { t.pipe with async := [⟨0x0B, 0, 0⟩] } }
     s.boundary s.th = true ∧ s.Settled ∧ s.th.st tSP = false ∧ s.th.pipe.trapDue = none ∧ s.th.pipe.async = [⟨0x0B, 0, 0⟩] ∧
       s.outOfBudget s.th s.th = false) ∧
    ((dogS false).watchdogDue (dogS false).part = true ∧ (dogS false).part.wdOnce = false ∧ (dogS false).th.active = true ∧
      (dogS true).watchdogDue (dogS true).part = true ∧ (dogS true).part.wdOnce = true ∧ (dogS true).Quiet) ∧
    (let s : State := { th base (fun t => { t with pipe := { t.pipe with park := some (.stack 1) } }) with cycle := 65536 }
     s.stackDue s.th = true ∧ s.Settled ∧ s.th.st tSP = false) :=
  ⟨⟨base_focused, by decide +kernel⟩, by decide +kernel, by decide +kernel,
    ⟨⟨rfl, rfl⟩, rfl, rfl, by decide +kernel, rfl, quiet_of (by decide +kernel), by unfold State.Canonical; decide +kernel, rfl, rfl, keyed_of (by decide +kernel)⟩, by decide +kernel,
    ⟨by decide +kernel, settled_of (by decide +kernel) rfl, by decide +kernel⟩,
    ⟨by decide +kernel, by decide +kernel, by decide +kernel, by decide +kernel, by decide +kernel, quiet_of (by decide +kernel)⟩,
    ⟨by decide +kernel, settled_of (by decide +kernel) rfl, by decide +kernel⟩⟩

/-- A thread that moves to core `c` by MIG, its status in w2. -/
def move1 (c : Cid) : Move := { thread := base.th, target := c, access := none, statusReg := some 2, arrived := none, returned := false, sent := 0 }
/-- A partition with levelling and one list of eight entries in its first core, none in the second. -/
def levelS : State :=
  { pa (co base fun c => { c with wlbase := 0x8000, wlsize := 0x100, wlCount := 8 }) (fun p => { p with level := 1 }) with
    cores := [{ Core.initial 1 with owner := some 0, wlbase := 0x8000, wlsize := 0x100 }]
    cycle := 1 }

/-- Travel: a walk, a closed and an open target, a confirmation and a return, a send of the levelling and an arrival. -/
theorem witness_Travel :
    (base.Focused ∧ base.Quiet) ∧
    (let s : State := { pa base (fun p => { p with ptroot := 0x10000 }) with
       mem := (Mem.writeN [] (hbmKey 0x10000) 8 0x11001).writeN (hbmKey 0x11000) 8 0x1F }
     ∃ r, addrSpace 0x8000000000000000 = 2 ∧ addrMbz 0x8000000000000000 = true ∧ translate s s.th.cid s.part 0x8000000000000000 = .ok r) ∧
    ((base.coreOf 4).owner = none ∧ (move1 0).thread.part = 0 ∧ (base.coreOf 0).testing = none ∧ (base.coreOf 0).stopped = false ∧
      (base.coreOf 0).owner = some (move1 0).thread.part ∧ base.freeSlot 0 = some (mkTid 0 1) ∧ (move1 0).thread.tid = base.th.tid ∧
      ({ base with moves := [move1 0] } : State).moveWaits (move1 0) = false) ∧
    (levelS.levelDue (levelS.partOf 0) = true ∧ levelS.levelSends (levelS.partOf 0) = [(0, 1, 4)]) ∧
    (let s : State := { levelS with transits := [⟨0, 1, 0, [(1, 2)], false, 0⟩] }
     s.Focused ∧ s.transitWaits ⟨0, 1, 0, [(1, 2)], false, 0⟩ = false ∧ (s.listOf 0 1).wlRoom = true ∧ (∀ y ∈ s.threads, y.isWaitingWork = false) ∧ s.Canonical) :=
  ⟨⟨base_focused, quiet_of (by decide +kernel)⟩, ⟨_, by decide +kernel, by decide +kernel, rfl⟩, by decide +kernel, by decide +kernel,
    ⟨⟨rfl, rfl⟩, by decide +kernel, by decide +kernel, by decide +kernel, by unfold State.Canonical; decide +kernel⟩⟩

/-- A message of one word in flight to slot 0 of core (0, 0). -/
def msg1 (anti : Bool) (st : MsgState) : Message :=
  { part := 0, src := 0, handle := 0, srcAxis := none, dest := 0, destHandle := base.th.handle, vt := 9, seq := 0, payload := [5], anti := anti, st := st, sent := 0 }
def mailed (s : State) (m : Message) : State := { s with messages := [m] }
/-- Bound to reduced axis 0. -/
def boundS (s : State) : State := th s fun t => { t with ax := { t.ax with axis := 0x8000000000000000 } }

/-- MessageEvents: a message for nobody, one that fills what its ring may take, an anti-message with its positive and one for nobody, an accepted
message and a refused one. -/
theorem witness_MessageEvents :
    (let s := mailed (th base fun t => { t with active := false }) (msg1 false .flight)
     s.Focused ∧ s.away 0 = false ∧ s.pathBusy 0 (tidCore 0) 0 = false ∧ s.receiver (msg1 false .flight) = none ∧ s.savedReceiver (msg1 false .flight) = false ∧ s.Quiet) ∧
    (let s := mailed (th base fun t => { t with ring := { t.ring with mrbase := 0x2000, mrsize := 0x100, head := 0x2000, tail := 0x2000, used := 192 } })
       (msg1 false .flight)
     s.receiver (msg1 false .flight) = some s.th ∧ s.th.bound = false ∧ s.th.ring.ok = true ∧ s.Canonical ∧
       s.th.ring.tail + slotBytes 1 ≤ s.th.ring.base + s.th.ring.size ∧
       slotBytes 1 + s.th.ring.size / 8 ≤ s.th.ring.size - s.th.ring.used) ∧
    (let s := mailed (boundS (ringed 0)) (msg1 true .flight)
     ∃ x, s.receiver (msg1 true .flight) = some s.th ∧ s.th.bound = true ∧ s.positive s.th (msg1 true .flight) = some x ∧
       hdrState x.2.2 = 0 ∧ s.Canonical) ∧
    ((msg1 false .accepted).srcAxis = none ∧ 0 + 256 ≤ 256) :=
  ⟨⟨⟨rfl, rfl⟩, by decide +kernel, by decide +kernel, by decide +kernel, by decide +kernel, quiet_of (by decide +kernel)⟩,
    ⟨by decide +kernel, by decide +kernel, by decide +kernel, by unfold State.Canonical; decide +kernel, by decide +kernel⟩,
    ⟨_, by decide +kernel, by decide +kernel, rfl, by decide +kernel, by unfold State.Canonical; decide +kernel⟩, by decide +kernel⟩

/-- The store of a DEFER that all others precede. -/
def effect1 : Effect :=
  { owner := 0, part := 0, ly := 0, lx := 0, user := true, axis := none, id := 0, vt := 1, kind := 0, cls := 0, addr := 0x1000, value := 7,
    entry := [], passed := true, left := false, live := true, slot := 0, saved := none, order := 0 }
def axisS (a : FrameAxis) : State := { base with axes := [a] }

/-- AxisEvents: a round due and one open, a cascade's event for a thread and one that names nothing, a passed STORE, a token, a drained axis. -/
theorem witness_AxisEvents :
    (let s : State := { boundS base with cycle := 128 }
     s.roundDue 0 0 = true) ∧
    (let s := pa base fun p => { p with round := some ⟨0, none⟩ }
     (s.partOf 0).round = some ⟨0, none⟩ ∧ s.away 0 = false) ∧
    (let s : State := { base with cascade := [⟨0, base.th.handle, 3, [4], [5]⟩], dir := [⟨4, 0, 0, 0, 0, 0, 0, 0, 0, 0⟩] }
     s.entryLives 5 = false ∧ s.entryLives 4 = true ∧ s.byHandle 0 base.th.handle = some s.th ∧ s.th.axisMode ≠ 1 ∧ s.Quiet ∧ s.th.rw.event = none) ∧
    (let s := co base fun c => { c with commits := [effect1] }
     s.nextEffect s.core = some effect1 ∧ effect1.kind = 0 ∧ s.heldByOther (some effect1.owner) 0x1000 8 = none ∧ s.Quiet ∧ s.Canonical ∧
       s.effectOut s.core.cid = false ∧ (s.coreOf (tidCore effect1.owner)).scoreboard effect1.addr 8 true = false ∧
       ∃ pl, resolve s effect1.agent .store 8 effect1.addr = .ok pl ∧ pl.special = .none ∧ s.Keyed pl 8) ∧
    (let a := { FrameAxis.initial 64 with word0 := 0x8000000000010000, hzn := 1, tokens := [⟨0, 7, 0⟩] }
     (axisS a).axisOf 64 = a ∧ a.owner = some 0 ∧ (axisS a).away 0 = false ∧ a.batch a.published a.tokens = [⟨0, 7, 0⟩] ∧ a.publishes ⟨0, 7, 0⟩ = true ∧ (axisS a).Canonical) ∧
    (let a := { FrameAxis.initial 64 with draining := true }
     (axisS a).resetDue ((axisS a).axisOf 64) = true) :=
  ⟨by decide +kernel, by decide +kernel,
    ⟨by decide +kernel, by decide +kernel, by decide +kernel, by decide +kernel, quiet_of (by decide +kernel), by decide +kernel⟩,
    ⟨by decide +kernel, by decide +kernel, by decide +kernel, quiet_of (by decide +kernel), by unfold State.Canonical; decide +kernel,
      by decide +kernel, by decide +kernel, ⟨_, rfl, rfl, keyed_of (by decide +kernel)⟩⟩,
    ⟨by decide +kernel, by decide +kernel, by decide +kernel, by decide +kernel, by decide +kernel, by unfold State.Canonical; decide +kernel⟩, by decide +kernel⟩

/-- The module with its management state changed. -/
def mo (s : State) (f : Module → Module) : State := { s with modl := f s.modl }

/-- The block of the last HBM byte below the doorbell window, written under the key index that peer 3 sends for it. -/
def peerAt : Nat := 0x1FFFFFFBFFF
def peerS : State := { base with keyed := putKeyed (hbmKey peerAt / 16) (Config.peerKeyIndex 3 peerAt) [] }

theorem peerS_keyed : peerS.Keyed (peerPlace 3 peerAt .none) (2 ^ 0) := by
  intro b h
  have e : blocksOf (peerPlace 3 peerAt .none).key (2 ^ 0) = [hbmKey peerAt / 16] := by
    change blocksOf (hbmKey peerAt) 1 = _
    decide +kernel
  rw [e] at h
  cases List.mem_singleton.mp h
  by_cases k : Config.peerKeyIndex 3#6 peerAt = 0#13 <;> simp [State.blockKey, peerS, putKeyed, peerPlace, k]

theorem peerS_canonical : peerS.Canonical := by
  refine ⟨base_canonical.1, ?_⟩
  by_cases k : Config.peerKeyIndex 3#6 peerAt = 0#13 <;> simp [peerS, putKeyed, keyedWf, k]

/-- ModuleUnits: a peer's load and store of the last bytes below the window, the last link, a logged interrupt; an idle core, a tested one, a failing one
with a spare; a lease over and one that runs. -/
theorem witness_ModuleUnits :
    (peerS.stage = 2 ∧ State.reset.stage ≠ 2 ∧ (0x1FFFFFFBFFF : BitVec 41).toNat < aliasBase ∧
      peerS.Keyed (peerPlace 3 peerAt .none) (2 ^ 0) ∧ peerS.Canonical ∧ peerS.poisonIn (hbmKey peerAt) (2 ^ 0) = none ∧
      peerS.held = [] ∧ (23 : BitVec 5).toNat < 24 ∧ ∀ x ∈ base.threads, x.pipe.peerPosts = []) ∧
    (let s := co base fun c => { c with log := { c.log with replay := [(0, [0x80000000, 0, 0, 1])] } }
     s.Focused ∧ s.core.log.replay = [(0, [0x80000000, 0, 0, 1])] ∧ (0 : Word).toNat ≤ s.core.log.cyc.toNat ∧
       bits (recWord [0x80000000, 0, 0, 1] 0) 31 28 = 8 ∧ bits (recWord [0x80000000, 0, 0, 1] 0) 27 25 = s.th.slot.toNat) ∧
    (base.coreIdle 5 = true ∧ (base.coreOf 5).testing = none ∧ (base.coreOf 5).shadowHolds = none ∧ (5 : Cid) ∉ base.modl.failing) ∧
    (co base fun c => { c with testing := some 0 }).core.testing ≠ none ∧
    (let s : State := { co base (fun c => { c with testing := some 0 }) with launches := [launch1 0] }
     s.wantsCore 0 = true ∧ ({ s with launches := [] } : State).wantsCore 0 = false) ∧
    (let s := mo base fun m => { m with startStatus := 0xFFFF0002 }
     s.firstFollower = some 1 ∧ s.firstFollower ≠ some 2) ∧
    (let s := mo base fun m => { m with failing := [4], spares := [8] }
     4 ∈ s.modl.failing ∧ (∀ c ∈ quadOf 4, s.coreIdle c = true ∧ (s.coreOf c).testing = none) ∧ (quadOf 8).head? = some 8 ∧ 8 ∈ s.modl.spares ∧
       s.allFree (quadOf 8) = true) ∧
    (bits base.modl.fwlease 63 8 ≤ (base.cycle - base.modl.startedAt) / 2 ∧ ¬bits (0x100 : Word) 63 8 ≤ (base.cycle - base.modl.startedAt) / 2) := by
  refine ⟨⟨rfl, by decide +kernel, by decide +kernel, peerS_keyed, peerS_canonical, rfl, rfl, by decide +kernel⟩, ⟨⟨rfl, rfl⟩, by decide +kernel⟩, by decide +kernel, by decide +kernel,
    by decide +kernel, by decide +kernel, ⟨by decide +kernel, every_of (by decide +kernel), by decide +kernel⟩, by decide +kernel⟩

/-- StagedStart: both stages before the full function, the second and the third failure, and 30 s. -/
theorem witness_StagedStart :
    (State.reset.stage = 0 ∧ (mo State.reset fun m => { m with startStatus := 0x11 }).stage = 1 ∧
      bits (mo State.reset fun m => { m with startStatus := 0x11 }).modl.startStatus 7 4 < 2 ∧
      2 ≤ bits (mo State.reset fun m => { m with startStatus := 0x20 }).modl.startStatus 7 4) ∧
    (let s : State := { State.reset with cycle := 60000000000 }
     s.stage ≤ 1 ∧ s.modl.startedAt + 60000000000 ≤ s.cycle) := by decide +kernel

theorem completes_of {r : Result} (h : (match r with
    | .next _ => true
    | _ => false) = true) : ∃ t, r = .next t := by
  cases r with
  | next t => exact ⟨t, rfl⟩
  | fault _ => cases h
  | refused _ => cases h

/-- StepRunsDecoded, DecodeEncode and StepKeepsCanonical: an issue of a good and of a refused word, an event, a barrel cycle; a well-formed
instruction; a step from a canonical state. -/
theorem witness_StepRunsDecoded :
    (let s : State := { State.reset.withFetchWord 32 0x08400005 with issueNow := true }
     s.issueNow = true ∧ s.th.pipe.trapDue = none ∧ s.th.asyncCause = none ∧ s.th.eventDue = none ∧ s.th.pipe.held = [] ∧
       s.th.exhausted = none ∧ s.th.pipe.park = none ∧ s.th.pipe.fence = none ∧ s.replays s.th.cid = false ∧ s.th.gang = none ∧
       s.nextWord = .ok 0x08400005 ∧ decode 0x08400005 = .ok (.addi 1 0 5)) ∧
    (base.nextWord = .ok 0 ∧ ∃ e, decode 0 = .error e) ∧
    ((Instr.powerGood).isWord = false ∧ base.issueNow = false ∧ base.inbox = [] ∧ base.engineTurn = false) ∧
    (let u := ({ base with engineTurn := true } : State).tickCycle.sampleAll
     u.nextSlot u.core.cid = some 0) ∧
    (Instr.mma 15 7 6 4 5 12 1 2).wellFormed = true ∧ base.Canonical ∧ ∃ t, step base = .next t :=
  ⟨⟨rfl, rfl, by decide +kernel, by decide +kernel, rfl, by decide +kernel, rfl, rfl, by decide +kernel, rfl, rfl, rfl⟩, ⟨rfl, ⟨_, rfl⟩⟩,
    by decide +kernel, by decide +kernel, by decide +kernel, base_canonical, completes_of (by decide +kernel)⟩

/-- StepRunsDecoded in a gang of two: an ADDI of the leader that its follower executes after it. -/
def ganged : State :=
  let s := State.reset.withFetchWord 32 0x08400005
  { s with
    th := { s.th with gang := some (0, 1) }
    issueNow := true
    others := [{ Thread.unpopulated 8 with active := true, gang := some (0, 1) }]
    cores := [{ Core.initial 1 with owner := some 0 }] }

/-- The member goes on: it does not park, end or trap. -/
def wentOn (old : Thread) (r : Result) : Bool := match r with
  | .next t => t.th.pipe.park == none && t.th.active && !old.trapped t.th
  | _ => false

def outcome (r : Result) : State := match r with
  | .next t => t
  | _ => State.reset

theorem witness_StepRunsDecoded_gang :
    (ganged.issueNow = true ∧ ganged.th.pipe.trapDue = none ∧ ganged.th.asyncCause = none ∧ ganged.th.eventDue = none ∧
      ganged.th.pipe.held = [] ∧ ganged.th.exhausted = none ∧ ganged.th.pipe.park = none ∧ ganged.th.pipe.fence = none ∧
      ganged.replays ganged.th.cid = false ∧ ganged.faultReports = [] ∧ ganged.th.gang = some (ganged.th.tid, 1)) ∧
    (ganged.nextWord = .ok 0x08400005 ∧ decode 0x08400005 = .ok (.addi 1 0 5) ∧ leaderOnly (.addi 1 0 5) = false) ∧
    ((ganged.gangOf ganged.th.tid).filter (·.tid != ganged.th.tid)).map (·.tid) = [8] ∧
    (let r := exec (.addi 1 0 5) (({ ganged with issueNow := false } : State).withFetched 0x08400005)
     let v := (((outcome r).focus 8).issues).mapTh fun t => { t with pc := ganged.th.pc }
     wentOn ganged.th r = true ∧ wentOn v.th (exec (.addi 1 0 5) v) = true) :=
  ⟨by decide +kernel, ⟨rfl, rfl, rfl⟩, by decide +kernel, by decide +kernel⟩

end Sys2Proof.Tests
end

section
/-! The registers with a fixed value (04_threads.md R54). The layer on register reads and writes has w0's rules; here stand
m0's discarded write, the lanes a mask operand of m0 enables, and what an instruction whose destination is w0 does. -/
namespace Sys2Proof.Machine

@[simp] theorem Thread.wrm_zero (t : Thread) (x : Word) : t.wrm 0 x = t := rfl

/-- Every one of the 64 lanes is enabled; beyond them a mask has no bits. -/
theorem Thread.getLsbD_rdm_zero (t : Thread) (i : Nat) : (t.rdm 0).getLsbD i = decide (i < 64) := by
  rw [Thread.rdm_zero]
  exact BitVec.getLsbD_allOnes

/-- w0 is never pending, so no window can cover it (01_tutorial.md R10). -/
theorem State.free_zero_cons {s : State} {rs : List Reg} : s.Free (0 :: rs) ↔ s.Free rs := by
  simp [State.Free]

/-- A result that goes to w0 is discarded, so its value does not matter. -/
theorem Puts.zero_congr {r : Result} {s : State} {x : Word} (h : Puts r s 0 x) (y : Word) : Puts r s 0 y := by
  obtain ⟨t, ht, -, hothers, hmem, hframe⟩ := h
  exact ⟨t, ht, fun h0 => absurd rfl h0, hothers, hmem, hframe⟩

/-- An ADD to w0 changes nothing but what passing the instruction changes. -/
theorem exec_add_zero_puts {s : State} {a b : Reg} (h : s.Free [a, b]) (y : Word) : Puts (exec (.add 0 a b) s) s 0 y := by
  rw [exec_add, execAdd]
  exact (alu3_puts (State.free_zero_cons.2 h)).zero_congr y

/-- Settles O6: each part is a rule of reading a register after a write; the ADD to w0 puts a result that is discarded. -/
theorem fixedRegisters : Obligations.FixedRegisters := by
  unfold Obligations.FixedRegisters
  refine ⟨fun t x => ?w0, fun t x => ?m0, fun t i hi => ?lanes, fun t x => t.rdv_wrv_self 0 x,
    fun s a b hfree => exec_add_zero_puts hfree 0, Thread.rd_wr_self, Thread.rdm_wrm_self⟩
  case w0 =>
    have hdiscard : t.wr 0 x = t := Thread.wr_zero t x
    exact ⟨t.rd_zero, by rw [hdiscard, Thread.rd_zero], hdiscard⟩
  case m0 =>
    have hdiscard : t.wrm 0 x = t := Thread.wrm_zero t x
    exact ⟨t.rdm_zero, by rw [hdiscard]; exact t.rdm_zero, hdiscard⟩
  case lanes =>
    rw [Thread.getLsbD_rdm_zero, decide_eq_true hi]

end Sys2Proof.Machine
end

section
/-! Bit fields and words of memory: a field read back after it is replaced, and the word at an address to which a word was written
(00_scope.md R4). -/
namespace Sys2Proof.Machine

theorem testBit_bits {n : Nat} (x : BitVec n) (hi lo i : Nat) :
    (bits x hi lo).testBit i = (decide (i < hi + 1 - lo) && x.getLsbD (lo + i)) := by
  rw [bits, Nat.testBit_mod_two_pow, Nat.testBit_shiftRight]
  rfl

/-- Within a field that is replaced, a bit is that of the new value. -/
theorem getLsbD_setBits_field {n hi lo i : Nat} (x : BitVec n) (v : Nat) (hn : lo + i < n) (hi' : i < hi + 1 - lo) :
    (setBits x hi lo v).getLsbD (lo + i) = v.testBit i := by
  simp only [setBits, BitVec.getLsbD_or, BitVec.getLsbD_and, BitVec.getLsbD_not, BitVec.getLsbD_ofNat, Nat.testBit_shiftLeft,
    Nat.testBit_two_pow_sub_one, Nat.testBit_mod_two_pow, Nat.add_sub_cancel_left, hn, hi', Nat.le_add_right, decide_true,
    Bool.true_and, Bool.not_true, Bool.and_false, Bool.false_or, ge_iff_le]

/-- A field reads as the value that replaced it, cut to its width. -/
theorem bits_setBits {n hi lo : Nat} (x : BitVec n) (v : Nat) (h : hi < n) :
    bits (setBits x hi lo v) hi lo = v % 2 ^ (hi + 1 - lo) := by
  apply Nat.eq_of_testBit_eq
  intro i
  rw [testBit_bits, Nat.testBit_mod_two_pow]
  by_cases hi' : i < hi + 1 - lo
  · rw [getLsbD_setBits_field x v (by omega) hi']
  · simp [hi']

/-- Bytes read where they were written are the low bytes of the number. -/
theorem Mem.readN_writeN_self {m : Mem} (h : m.wf = true) (a n v : Nat) : (m.writeN a n v).readN a n = v % 256 ^ n := by
  apply Nat.eq_of_testBit_eq
  intro i
  rw [Mem.testBit_readN, show (256 : Nat) = 2 ^ 8 by rfl, ← Nat.pow_mul, Nat.testBit_mod_two_pow]
  by_cases hi : i < 8 * n
  · have hbyte : (m.writeN a n v).read (a + i / 8) = BitVec.ofNat 8 (v / 2 ^ (8 * (i / 8))) := by
      rw [Mem.read_writeN h, if_pos (by omega), Nat.add_sub_cancel_left, show (256 : Nat) = 2 ^ 8 by rfl, ← Nat.pow_mul]
    have hpos : 8 * (i / 8) + i % 8 = i := Nat.div_add_mod i 8
    rw [if_pos hi, hbyte, BitVec.getLsbD_ofNat, Nat.testBit_div_two_pow, Nat.add_comm, hpos]
    simp [hi, Nat.mod_lt]
  · simp [hi]

/-- The word at an address is the one written there last. -/
theorem Mem.word_writeN_self {m : Mem} (h : m.wf = true) (a : Nat) (x : Word) : (m.writeN a 8 x.toNat).word a = x := by
  rw [Mem.word, Mem.readN_writeN_self h, show (256 : Nat) ^ 8 = 2 ^ 64 by rfl, Nat.mod_eq_of_lt x.isLt, BitVec.ofNat_toNat, BitVec.setWidth_eq]

end Sys2Proof.Machine
end

section
/-! MDONE and the thread's message ring (15_time_axes.md R235 to R241): what the network interface's writes into a ring and the freeing of its
slots leave unchanged, which slot MDONE marks, and when it marks none. -/
namespace Sys2Proof.Machine

/-! ### Writes into a ring -/

@[simp] theorem State.putCore_mem (s : State) (x : Core) : (s.putCore x).mem = s.mem := by
  unfold State.putCore; split <;> rfl
@[simp] theorem State.putCore_th (s : State) (x : Core) : (s.putCore x).th = s.th := by
  unfold State.putCore; split <;> rfl

/-- A port's trace is kept in its core: logging a write changes one core at most. -/
theorem State.tracedAt_cases (s : State) (pl : Place) (src : Tid) (kind : BitVec 4) (n : Nat) :
    s.tracedAt pl src kind n = s ∨ ∃ c, s.tracedAt pl src kind n = s.putCore c := by
  unfold State.tracedAt State.traced State.updCore
  split
  · split
    · exact .inr ⟨_, rfl⟩
    · exact .inl rfl
  · exact .inl rfl

@[simp] theorem State.tracedAt_mem (s : State) (pl : Place) (src : Tid) (kind : BitVec 4) (n : Nat) :
    (s.tracedAt pl src kind n).mem = s.mem := by
  obtain h | ⟨c, h⟩ := s.tracedAt_cases pl src kind n <;> simp [h]
@[simp] theorem State.tracedAt_th (s : State) (pl : Place) (src : Tid) (kind : BitVec 4) (n : Nat) :
    (s.tracedAt pl src kind n).th = s.th := by
  obtain h | ⟨c, h⟩ := s.tracedAt_cases pl src kind n <;> simp [h]

/-- Setting STATE rewrites word 1 of the header and no other byte. -/
theorem State.setSlot_mem (s : State) (t : Thread) (off st : Nat) :
    (s.setSlot t off st).mem = s.mem.writeN (s.ownKey t (off + 8)) 8 (setBits (s.header t off).2 10 8 st).toNat :=
  State.tracedAt_mem _ _ _ _ _
@[simp] theorem State.setSlot_th (s : State) (t : Thread) (off st : Nat) : (s.setSlot t off st).th = s.th :=
  State.tracedAt_th _ _ _ _ _

/-- The header of a slot whose STATE was set says so. -/
theorem State.hdrState_setSlot {s : State} (h : s.Canonical) (t : Thread) (off st : Nat) :
    hdrState ((s.setSlot t off st).mem.word (s.ownKey t (off + 8))) = st % 8 := by
  obtain ⟨hmem, -⟩ := h
  rw [State.setSlot_mem, Mem.word_writeN_self hmem, hdrState]
  exact bits_setBits _ st (by decide)

/-! ### Freeing slots -/

/-- The current thread with its ring's registers changed. -/
def State.withRing (s : State) (r : Ring) : State := s.mapTh fun t => { t with ring := r }

theorem State.thread_current (s : State) : s.thread s.th.tid = s.th := if_pos rfl

/-- The head of the current thread's ring moves within its ring's registers: nothing else changes (R237). -/
theorem advanceHead_current (fuel : Nat) (s : State) : ∃ r, advanceHead s.th.tid fuel s = s.withRing r := by
  induction fuel generalizing s with
  | zero => exact ⟨s.th.ring, rfl⟩
  | succ fuel ih =>
    rw [advanceHead]
    simp only [State.thread_current]
    split
    · split
      · obtain ⟨r, hr⟩ := ih (s.withRing { s.th.ring with
          head := s.th.ring.next s.th.ring.head (s.th.ring.slotSize s.th.ring.head (s.header s.th s.th.ring.head).2)
          used := s.th.ring.used - s.th.ring.slotSize s.th.ring.head (s.header s.th s.th.ring.head).2 })
        refine ⟨r, ?_⟩
        rw [State.putThread, if_pos rfl]
        exact hr
      · exact ⟨s.th.ring, rfl⟩
    · exact ⟨s.th.ring, rfl⟩

theorem State.freeSlots_current (s : State) : ∃ r, s.freeSlots s.th.tid = s.withRing r := by
  rw [State.freeSlots, State.thread_current]
  exact advanceHead_current _ s

/-- A DONE slot is freed once the horizon passes its VT, which in an unbound thread's ring it always has (R237). -/
theorem State.slotFreed_done (s : State) (t : Thread) (w0 w1 : Word) (h : hdrState w1 = 2) :
    s.slotFreed t w0 w1 = true ↔ t.bound = false ∨ w0.toNat < (s.hznOf t).toNat := by
  simp [State.slotFreed, h, BitVec.lt_def]

/-! ### MDONE -/

/-- The address is one of the thread's own core's memory, in either local space. -/
def State.OwnAddr (s : State) (a : Word) : Prop :=
  addrMbz a = true ∧ (addrSpace a = 0 ∨ addrSpace a = 3) ∧
    resolveLocal s.part s.th.agent a = some (s.th.ident.ly, s.th.ident.lx)

/-- The slot of the thread's ring at the address's offset, when there is one. -/
def State.slotAt (s : State) (a : Word) : Option (Nat × Word × Word) :=
  (s.slots s.th).find? (fun m => m.1 = a.toNat % 2 ^ 21)

theorem State.slotAt_offset {s : State} {a : Word} {m : Nat × Word × Word} (h : s.slotAt a = some m) : m.1 = a.toNat % 2 ^ 21 := by
  simpa using List.find?_some h

/-- What MDONE does with an address of the thread's own core. -/
theorem State.markDone_own {s : State} {a : Word} (h : s.OwnAddr a) :
    s.markDone a = match s.slotAt a with
      | some m => if hdrState m.2.2 = 1 then (s.setSlot s.th m.1 2).freeSlots s.th.tid else s
      | none => s := by
  obtain ⟨hmbz, hspace, hres⟩ := h
  have hform : ¬(!addrMbz a || addrSpace a = 1 || addrSpace a = 2) = true := by
    simp only [hmbz, Bool.not_true, Bool.false_or, Bool.or_eq_true, decide_eq_true_eq]
    omega
  rw [State.markDone, if_neg hform, if_neg (Classical.not_not.2 hres)]
  rfl

/-- A delivered message of the thread's ring becomes DONE, and the head may move over it. -/
theorem State.markDone_delivered {s : State} {a : Word} {m : Nat × Word × Word} (h : s.OwnAddr a) (hm : s.slotAt a = some m)
    (hst : hdrState m.2.2 = 1) : ∃ r, s.markDone a = (s.setSlot s.th (a.toNat % 2 ^ 21) 2).withRing r := by
  obtain ⟨r, hr⟩ := (s.setSlot s.th (a.toNat % 2 ^ 21) 2).freeSlots_current
  refine ⟨r, ?_⟩
  rw [State.markDone_own h, hm]
  simp only [hst, if_true, State.slotAt_offset hm]
  rwa [State.setSlot_th] at hr

theorem State.markDone_not_own {s : State} {a : Word} (h : ¬s.OwnAddr a) : s.markDone a = s := by
  rw [State.markDone]
  split
  · rfl
  · next hform =>
    split
    · rfl
    · next hres =>
      have hlt : addrSpace a < 4 := Nat.mod_lt _ (by decide)
      simp only [Bool.or_eq_true, Bool.not_eq_true', decide_eq_true_eq, not_or, Bool.not_eq_false] at hform
      obtain ⟨⟨hmbz, h1⟩, h2⟩ := hform
      exact absurd ⟨hmbz, by omega, Classical.not_not.1 hres⟩ h

/-- Without a delivered message at the address MDONE marks nothing. -/
theorem State.markDone_else {s : State} {a : Word} (h : ¬s.OwnAddr a ∨ ∀ m, s.slotAt a = some m → hdrState m.2.2 ≠ 1) :
    s.markDone a = s := by
  by_cases hown : s.OwnAddr a
  · have hnone := h.resolve_left (Classical.not_not.2 hown)
    rw [State.markDone_own hown]
    split
    · next m hm => exact if_neg (hnone m hm)
    · rfl
  · exact State.markDone_not_own hown

/-! ### The pass of an MDONE -/

/-- A thread's windows have no part in where its ring's slots lie. -/
theorem walkRing_tick (s : State) (t : Thread) (fuel off left : Nat) :
    walkRing (s.mapTh Thread.tick) t.tick fuel off left = walkRing s t fuel off left := by
  induction fuel generalizing off left with
  | zero => rfl
  | succ fuel ih =>
    simp only [walkRing, ih]
    rfl

theorem State.slotAt_tick (s : State) (a : Word) : (s.mapTh Thread.tick).slotAt a = s.slotAt a := by
  have hslots : (s.mapTh Thread.tick).slots s.th.tick = s.slots s.th := by
    simp only [State.slots, walkRing_tick, Thread.tick_ring]
  exact congrArg (List.find? _) hslots

theorem State.setSlot_tick_mem (s : State) (t : Thread) (off st : Nat) :
    ((s.mapTh Thread.tick).setSlot t.tick off st).mem = (s.setSlot t off st).mem := by
  rw [State.setSlot_mem, State.setSlot_mem]
  rfl

theorem State.ownAddr_tick (s : State) (a : Word) : (s.mapTh Thread.tick).OwnAddr a ↔ s.OwnAddr a := Iff.rfl

/-- The next pc depends on the pc and the repeat frame alone. -/
theorem Thread.step4_pc_congr {t u : Thread} (hpc : t.pc = u.pc) (hrpt : t.trap.rptst = u.trap.rptst)
    (hframe : t.pipe.inFrame = u.pipe.inFrame) : t.step4.pc = u.step4.pc := by
  simp only [Thread.step4, hpc, hrpt, hframe, apply_ite Thread.pc]

theorem Thread.step4_tick_pc (t : Thread) : t.tick.step4.pc = t.step4.pc := Thread.step4_pc_congr rfl rfl rfl

/-- MDONE free of open windows marks the slot at its address and passes. -/
theorem exec_mdone_free {s : State} {a : Reg} (h : s.Free [a]) :
    exec (.mdone a) s = .next ((s.mapTh Thread.tick).markDone (s.rd a)).advance := by
  rw [exec_mdone, execMdone, simple_free h]
  rfl

/-- Passing an instruction after a change of the ring's registers reads every register as before. -/
theorem State.rd_advance_withRing (s : State) (r : Ring) (e : Reg) : (s.withRing r).advance.rd e = s.rd e := Thread.rd_step4 _ e
theorem State.pc_advance_withRing (s : State) (r : Ring) : (s.withRing r).advance.th.pc = s.th.step4.pc :=
  Thread.step4_pc_congr rfl rfl rfl

/-- A delivered message of the thread's ring becomes DONE in memory, and the thread goes on with its registers as they were. -/
theorem exec_mdone_delivered {s : State} {a : Reg} {m : Nat × Word × Word} (h : s.Free [a]) (hown : s.OwnAddr (s.rd a))
    (hm : s.slotAt (s.rd a) = some m) (hst : hdrState m.2.2 = 1) :
    ∃ t, exec (.mdone a) s = .next t ∧ t.mem = (s.setSlot s.th ((s.rd a).toNat % 2 ^ 21) 2).mem ∧ (∀ e, t.rd e = s.rd e) ∧
      t.th.pc = s.th.step4.pc := by
  obtain ⟨r, hr⟩ := State.markDone_delivered ((s.ownAddr_tick _).2 hown) ((s.slotAt_tick _).trans hm) hst
  have hth := (s.mapTh Thread.tick).setSlot_th s.th.tick ((s.rd a).toNat % 2 ^ 21) 2
  refine ⟨_, exec_mdone_free h, ?mem, fun e => ?regs, ?pc⟩
  all_goals rw [hr]
  case mem => exact s.setSlot_tick_mem _ _ _
  case regs => exact (State.rd_advance_withRing _ r e).trans (congrArg (·.rd e) hth)
  case pc => exact (State.pc_advance_withRing _ r).trans ((congrArg (·.step4.pc) hth).trans s.th.step4_tick_pc)

theorem exec_mdone_else {s : State} {a : Reg} (h : s.Free [a])
    (hnone : ¬s.OwnAddr (s.rd a) ∨ ∀ m, s.slotAt (s.rd a) = some m → hdrState m.2.2 ≠ 1) :
    exec (.mdone a) s = .next { s with th := s.th.passed } := by
  rw [exec_mdone_free h, State.markDone_else (by rwa [State.ownAddr_tick, State.slotAt_tick])]
  rfl

/-- Settles O27: MDONE is split by whether its address names a delivered message of the thread's ring; the other two parts are the rule of a
field read back after it is set, and that of a freed slot. -/
theorem messageDone : Obligations.MessageDone := by
  unfold Obligations.MessageDone
  refine ⟨fun s a hfree => ⟨fun m hown hm hst => ?delivered, exec_mdone_else hfree⟩, fun s t off hcanon => s.hdrState_setSlot hcanon t off 2,
    State.slotFreed_done⟩
  case delivered =>
    obtain ⟨t, hexec, hmem, hregs, hpc⟩ := exec_mdone_delivered hfree hown hm hst
    exact ⟨t, _, hexec, rfl, hmem, hregs, hpc⟩

end Sys2Proof.Machine
end

section
/-! The shift-immediate group (22_ref_or_utfb.md R372): the word-level shifts as arithmetic, what each instruction puts, and the words of the
group's major that the decoder refuses (08_encoding.md R135). -/
namespace Sys2Proof.Machine

/-! ### Shifts as arithmetic -/

theorem shiftLeft_eq_ofNat {k : Nat} (x : BitVec k) (n : Nat) : x <<< n = BitVec.ofNat k (x.toNat * 2 ^ n) := by
  rw [← Nat.shiftLeft_eq]
  rfl

theorem ushiftRight_eq_ofNat {k : Nat} (x : BitVec k) (n : Nat) : x >>> n = BitVec.ofNat k (x.toNat / 2 ^ n) := by
  rw [← Nat.shiftRight_eq_div_pow, ← BitVec.toNat_ushiftRight, BitVec.ofNat_toNat, BitVec.setWidth_eq]

theorem sshiftRight_eq_ofInt {k : Nat} (x : BitVec k) (n : Nat) : x.sshiftRight n = BitVec.ofInt k (x.toInt / 2 ^ n) := by
  rw [BitVec.sshiftRight, Int.shiftRight_eq_div_pow]
  norm_cast

/-! ### What the instructions put -/

theorem exec_shli_puts {s : State} {d a : Reg} (h : s.Free [d, a]) (n : BitVec 6) :
    Puts (exec (.shli d a n) s) s d (s.rd a <<< n.toNat) := by
  rw [exec_shli, execShli]
  exact alu2_puts h

theorem exec_shri_puts {s : State} {d a : Reg} (h : s.Free [d, a]) (n : BitVec 6) :
    Puts (exec (.shri d a n) s) s d (s.rd a >>> n.toNat) := by
  rw [exec_shri, execShri]
  exact alu2_puts h

theorem exec_srai_puts {s : State} {d a : Reg} (h : s.Free [d, a]) (n : BitVec 6) :
    Puts (exec (.srai d a n) s) s d ((s.rd a).sshiftRight n.toNat) := by
  rw [exec_srai, execSrai]
  exact alu2_puts h

/-! ### Words that the decoder refuses -/

/-- A word with a must-be-zero field that is not zero is refused (check 2). -/
theorem word_of_not_allZero {w : Half} {zs : List (Nat × Nat)} (h : Decode.allZero w zs = false) (i : Instr) :
    Decode.word w zs i = .error .mustBeZero := by
  simp [Decode.word, h]

theorem allZero_singleton {w : Half} {hi lo : Nat} :
    Decode.allZero w [(hi, lo)] = (w.extractLsb' lo (hi + 1 - lo) == 0) := Bool.and_true _

theorem raw_of_major07 {w : Half} (h : w.extractLsb' 26 6 = 7#6) : Decode.raw w = Decode.major07 w := by
  rw [Decode.raw, Decode.fld, h]
  rfl

/-- Kind 3 names no instruction (check 1). -/
theorem major07_of_kind3 {w : Half} (h : w.extractLsb' 16 2 = 3#2) : Decode.major07 w = .error .selectorUnlisted := by
  rw [Decode.major07, Decode.fld, h]
  rfl

/-- Bits 15:6 are zero in every instruction of the group, whatever the kind. -/
theorem major07_of_not_mustBeZero {w : Half} (h : w.extractLsb' 6 10 ≠ 0#10) : ∃ e, Decode.major07 w = .error e := by
  have hz : Decode.allZero w [(15, 6)] = false := by
    rw [allZero_singleton]
    exact beq_eq_false_iff_ne.2 h
  simp only [Decode.major07, word_of_not_allZero hz]
  split <;> exact ⟨_, rfl⟩

theorem decode_of_raw_error {w : Half} {e : DecodeError} (h : Decode.raw w = .error e) : decode w = .error e := by
  simp only [decode, h]

/-- Kind 3 and a nonzero bit in 15:6 are refused. -/
theorem decode_shiftImmediate_refused {w : Half} (hmajor : w.extractLsb' 26 6 = 7#6)
    (h : w.extractLsb' 16 2 = 3#2 ∨ w.extractLsb' 6 10 ≠ 0#10) : ∃ e, decode w = .error e := by
  have hraw : ∃ e, Decode.major07 w = .error e := h.elim (fun hk => ⟨_, major07_of_kind3 hk⟩) major07_of_not_mustBeZero
  obtain ⟨e, he⟩ := hraw
  exact ⟨e, decode_of_raw_error ((raw_of_major07 hmajor).trans he)⟩

/-- A refused word takes the illegal-instruction trap with TVAL the word (08_encoding.md R135). -/
theorem runWord_refused {w : Half} {e : DecodeError} (h : decode w = .error e) (s : State) :
    runWord w s = .next (s.takeTrap ⟨0x01, 0, w.setWidth 64⟩) := by
  simp only [runWord, h]
  rfl

/-- Settles O5: each shift puts its word-level value, which is the arithmetic one and for an amount of 0 the word itself; the refused words are
those of major 7 that fail the decoder's first two checks. -/
theorem shiftImmediates : Obligations.ShiftImmediates := by
  unfold Obligations.ShiftImmediates
  intro s d a n hfree
  have hshli := exec_shli_puts hfree n
  have hshri := exec_shri_puts hfree n
  have hsrai := exec_srai_puts hfree n
  refine ⟨shiftLeft_eq_ofNat (s.rd a) n.toNat ▸ hshli, ushiftRight_eq_ofNat (s.rd a) n.toNat ▸ hshri,
    sshiftRight_eq_ofInt (s.rd a) n.toNat ▸ hsrai, fun hn => ?zero, fun w hmajor hw => ?refused, fun i hi => ?frame⟩
  case zero =>
    subst hn
    exact ⟨BitVec.shiftLeft_zero (s.rd a) ▸ hshli, BitVec.ushiftRight_zero (s.rd a) ▸ hshri,
      BitVec.sshiftRight_zero (x := s.rd a) ▸ hsrai⟩
  case refused =>
    obtain ⟨e, he⟩ := decode_shiftImmediate_refused hmajor hw
    exact ⟨⟨e, he⟩, runWord_refused he s⟩
  case frame =>
    obtain rfl | rfl | rfl := hi <;> exact ⟨rfl, rfl⟩

end Sys2Proof.Machine
end
